-- ==== Sys2Proof/Word.lean ====
section
/-!
DEFINITION. The word types of the block: bytes, the unsigned and signed register widths of `00_scope.md` rule R9 and the
floating type `f32` of rule R12 as its bit pattern.
-/

namespace Sys2Proof

/-- `u8`, one byte (R9). -/
abbrev Byte := BitVec 8

/-- `u16` or `i16` (R9); `i16` is read in two's complement. -/
abbrev U16 := BitVec 16

/-- `u32` (R9). -/
abbrev U32 := BitVec 32

/-- The pattern of an IEEE 754 binary32 value (R12). -/
abbrev F32 := BitVec 32

end Sys2Proof
end

