-- ==== Sys2Proof/Config.lean ====
section
/-!
DEFINITION. The configuration of the block: the named parameters of `00_scope.md` rule R8, the tables a model may replace
(R99, R105), the WaypointTable (R35), the switches of `92_eei_decisions.md`, and the free values, which are opaque constants.
-/

namespace Sys2Proof

/-- A drive command of the waypoint table: `Stop`, `Fwd(c)` or `Rev(c)` with a speed class (R246). -/
inductive DriveCmd where
  | stop
  | fwd (c : Nat)
  | rev (c : Nat)
  deriving DecidableEq, Repr

/-- One entry of the WaypointTable (R35). `trust` is stored and read by no operation (R222). -/
structure Waypoint where
  throttle : DriveCmd
  posX : F32
  posY : F32
  boundX : F32
  boundY : F32
  normU : F32
  normV : F32
  trust : F32
  deriving DecidableEq, Repr

/-- The two-wire status codes, "a parameter table a model may replace" (R99). -/
structure TwCodes where
  mask : Byte
  start : Byte
  repStart : Byte
  slawAck : Byte
  txdataAck : Byte
  slarAck : Byte
  rxdataAck : Byte
  rxdataNack : Byte
  deriving DecidableEq, Repr

/-- The values of the storage device's answers, parameters with defaults (R105, D35). -/
structure StoAnswers where
  /-- answer "idle", 0x01 -/
  idle : Byte
  /-- answer "ready, no error", 0x00 -/
  ready : Byte
  /-- the byte sent while the block only listens, and the device's "no answer yet", 0xFF -/
  filler : Byte
  /-- the token that opens a data block in either direction, 0xFE -/
  dataToken : Byte
  /-- mask and value of the "data accepted" response, 0x1F and 0x05 -/
  respMask : Byte
  respAccepted : Byte
  /-- what a busy device returns, 0x00 -/
  busy : Byte
  deriving DecidableEq, Repr

/-- The gate test of R233: the cross product of the rule, or the dot product of the switch `GATE_TEST` (D28). -/
inductive GateTest where
  | cross
  | dot
  deriving DecidableEq, Repr

/-- The parameters of R8. A model "takes the OPEN parameters as arguments of its configuration"; every definition of the
model takes them from a value of this type. -/
structure Config where
  nSlots : Nat
  nRaw : Nat
  sentenceCap : Nat
  /-- `TYPE_RMC`, six bytes -/
  typeRmc : List Byte
  nofixSentinel : Byte
  validSentinel : Byte
  refLat : F32
  refLon : F32
  mPerDegLat : F32
  mPerDegLon : F32
  /-- 7-bit address -/
  headingAddr : Byte
  headingReg : Byte
  headingErr : U16
  twCodes : TwCodes
  /-- `ENC_DIR`: true is A-leads-B increments (R207) -/
  encDirALeadsB : Bool
  metersPerTick : F32
  schedBits : Nat
  cycleTicks : Nat
  /-- the WaypointTable; its length is `TABLE_LEN` -/
  waypoints : List Waypoint
  neutralUs : U16
  /-- `FWD_US[c]` and `REV_US[c]`, one entry per class -/
  fwdUs : List U16
  revUs : List U16
  nClasses : Nat
  stepFromFwd : Nat
  stepFromRev : Nat
  revRampStep : Nat
  preReverseUs : U16
  preReverseHold : Nat
  steerMin : F32
  steerMax : F32
  steerCenterUs : U16
  steerUsPerRad : F32
  ticksPerUs : Nat
  startupPulses : Nat
  blockSize : Nat
  guardPrefix : U32
  guardSuffix : U32
  cmdHeader : Byte
  answers : StoAnswers
  respRetryMax : Nat
  opcondRetryMax : Nat
  tokenRetryMax : Nat
  busyRetryMax : Nat
  gateTest : GateTest
  /-- switch `OVERFLOW_LATCH` of D6; off is the rule's own reading -/
  overflowLatch : Bool
  /-- the variant of D35 that takes the busy wait as a success whatever is read; off is R298 -/
  busyIgnored : Bool
  deriving DecidableEq, Repr

/-- `TABLE_LEN` (R8). -/
def Config.tableLen (c : Config) : Nat := c.waypoints.length

/-! ## What moves next

The alphabet of the free choice of R332: the main loop's next micro-step, the handler of a pending event, or a step of the
environment (R11, R46). -/

/-- A pulse channel: 0 steering, 1 throttle (R37). -/
inductive Channel where
  | steering
  | throttle
  deriving DecidableEq, Repr, Inhabited

/-- One input of the step relation (R46): which agent moves next, with the event's data. -/
inductive Arrival where
  /-- the main-loop agent's next micro-step -/
  | mainLoop
  /-- the handler step of the `k`-th pending event; nothing when there is none -/
  | handler (k : Nat)
  /-- a byte arrives on `rx_data` with `rx_stb` -/
  | rxByte (b : Byte)
  /-- a two-wire completion arrives with `tw_evt` -/
  | twEvent (status data : Byte)
  /-- the quadrature inputs take the levels `qa ++ qb` -/
  | quad (ab : BitVec 2)
  /-- one clock of the scheduler counter -/
  | tick
  /-- one clock of a pulse counter -/
  | pulseTick (ch : Channel)
  /-- the host signal `run_en` takes a level -/
  | runEn (level : Bool)
  /-- `rst` is asserted and released -/
  | rst
  deriving DecidableEq, Repr, Inhabited

/-! ## Free values -/

/-- What the configuration leaves open of `cos` (R12, U20). `Machine.f32Cos` gives it the properties the rules name (log 13). -/
opaque Config.cos : F32 → F32

/-- What the configuration leaves open of `sin` (R12, U20; `Machine.f32Sin`, log 13). -/
opaque Config.sin : F32 → F32

/-- What the configuration leaves open of `asin` (R12, U20; `Machine.f32Asin`, log 13). -/
opaque Config.asin : F32 → F32

/-- What the configuration leaves open of `sqrt` (R12, U20; `Machine.f32Sqrt`, log 13). -/
opaque Config.sqrt : F32 → F32

/-- `floor` of an infinity (R165 and R12 state no value; log 40). -/
opaque Config.floorInf : F32 → F32

/-- Sign and payload of the NaN an operation returns; R12 fixes the value's class, not its bits. The first argument numbers
the operation. -/
opaque Config.nanBits : Nat → F32 → F32 → BitVec 23

/-- The sign of the zero `dec` reads from a field with a minus sign: of "-0", or of a number so small that its nearest binary32 is
zero (R160 does not state it; log 14). -/
opaque Config.decZeroSign : List Byte → Bool

/-- `to_u16` of a value that does not round into 0..65535 (R255 refuses such configurations and states no value). -/
opaque Config.toU16Other : F32 → U16

/-- The byte an unknown storage device answers, given every byte it has been sent so far, newest first (R276). -/
opaque Config.spiAnswer : List Byte → Byte

/-- The bytes of `lead` and `csd` after a failed read (R290, U2). -/
opaque Config.freeByte : Nat → Byte

/-- Which agent moves next when nothing is scripted (R332, U15). -/
opaque Config.arrival : Nat → Arrival

end Sys2Proof
end

