-- ==== Sys2Proof/Machine/Bytes.lean ====
section
/-!
DEFINITION. Byte orders and named bytes: the markers of `00_scope.md` rule R8, the orders of `20_memory.md` rules R60 to R63.
-/

namespace Sys2Proof.Machine

/-- `START_MARKER`, `$`. -/
def startMarker : Byte := 0x24#8
/-- `TERMINATOR`, `\n`. -/
def terminator : Byte := 0x0A#8
/-- `CHK_DELIM`, `*`. -/
def chkDelim : Byte := 0x2A#8
/-- `FIELD_DELIM`, `,`. -/
def fieldDelim : Byte := 0x2C#8
/-- The carriage return, at which a field ends (R95). -/
def carriageReturn : Byte := 0x0D#8

/-- `TYPE_GGA`, `$GPGGA` (R92). -/
def typeGga : List Byte := [0x24#8, 0x47#8, 0x50#8, 0x47#8, 0x47#8, 0x41#8]

/-- Byte `k` of a word, byte 0 least significant. -/
def byteOf (v : BitVec n) (k : Nat) : Byte := BitVec.ofNat 8 (v.toNat >>> (8 * k))

/-- The image of a u32 or f32, least significant byte first (R63). -/
def le32 (v : U32) : List Byte := [byteOf v 0, byteOf v 1, byteOf v 2, byteOf v 3]

/-- The image of a u16, least significant byte first (R63). -/
def le16 (v : U16) : List Byte := [byteOf v 0, byteOf v 1]

/-- A u32 on a wire or in an `OP8` trace, most significant byte first (R62, R108). -/
def be32 (v : U32) : List Byte := [byteOf v 3, byteOf v 2, byteOf v 1, byteOf v 0]

/-- The word of four bytes given most significant first (R62, R108). -/
def ofBe32 (a b c d : Byte) : U32 := a ++ b ++ c ++ d

/-- The word of four bytes given least significant first: an `f32` operand (R108). -/
def ofLe32 (a b c d : Byte) : U32 := d ++ c ++ b ++ a

end Sys2Proof.Machine
end

