-- ==== Sys2Proof/Machine/Formats.lean ====
section
/-!
DEFINITION. What the wire formats of `30_encoding.md` say of their bytes: the class of a received byte (R90), the class of a
two-wire event (R99), the command table (R103), hexadecimal digits (R93).
-/

namespace Sys2Proof.Machine

/-- The three classes of a received byte (R90). -/
inductive RxClass where
  | start
  | term
  | data
  deriving DecidableEq, Repr

/-- The class of a received byte, by exact match (R90). -/
def rxClass (b : Byte) : RxClass :=
  if b = startMarker then .start else if b = terminator then .term else .data

/-- The classes of a two-wire event (R99). -/
inductive TwClass where
  | start
  | repStart
  | slawAck
  | txdataAck
  | slarAck
  | rxdataAck
  | rxdataNack
  | other
  deriving DecidableEq, Repr

/-- The class of a two-wire event, by its status under the mask (R99). -/
def twClass (t : TwCodes) (status : Byte) : TwClass :=
  let c := status &&& t.mask
  if c = t.start then .start
  else if c = t.repStart then .repStart
  else if c = t.slawAck then .slawAck
  else if c = t.txdataAck then .txdataAck
  else if c = t.slarAck then .slarAck
  else if c = t.rxdataAck then .rxdataAck
  else if c = t.rxdataNack then .rxdataNack
  else .other

/-- A storage command: index, argument, trailing byte (R102, R103). -/
structure CmdFrame where
  cmd : BitVec 6
  arg : U32
  trail : Byte
  deriving DecidableEq, Repr

/-- The rows of R103. -/
def frameReset : CmdFrame := ⟨0x00#6, 0x00000000#32, 0x95#8⟩
def frameIfcond : CmdFrame := ⟨0x08#6, 0x000001AA#32, 0x87#8⟩
def frameApp : CmdFrame := ⟨0x37#6, 0x00000000#32, 0x00#8⟩
def frameOpcond : CmdFrame := ⟨0x29#6, 0x40000000#32, 0x01#8⟩
def frameReadocr : CmdFrame := ⟨0x3A#6, 0x00000000#32, 0x01#8⟩
def frameReadcsd : CmdFrame := ⟨0x09#6, 0x00000000#32, 0x00#8⟩
def frameReadblk (addr : U32) : CmdFrame := ⟨0x11#6, addr, 0x00#8⟩
def frameWriteblk (addr : U32) : CmdFrame := ⟨0x18#6, addr, 0x00#8⟩

/-- The first byte of a frame on the wire: the header ORed onto the command (R102). -/
def cmdByte (c : Config) (cmd : BitVec 6) : Byte := c.cmdHeader ||| cmd.zeroExtend 8

/-- The six bytes of a frame in wire order (R102, R62). -/
def frameBytes (c : Config) (f : CmdFrame) : List Byte :=
  cmdByte c f.cmd :: (be32 f.arg ++ [f.trail])

/-- `hexval` (R93); a byte that is no hexadecimal digit has no value. -/
def hexVal (c : Byte) : Option Byte :=
  if 0x30#8 ≤ c ∧ c ≤ 0x39#8 then some (c - 0x30#8)
  else if 0x41#8 ≤ c ∧ c ≤ 0x46#8 then some (c - 0x37#8)
  else if 0x61#8 ≤ c ∧ c ≤ 0x66#8 then some (c - 0x57#8)
  else none

end Sys2Proof.Machine
end

