-- ==== Sys2Proof/Machine/Standard.lean ====
section
/-!
DEFINITION. The configuration that `State.reset` carries: the defaults of `00_scope.md` rule R8, and where R8 gives none the
test configuration of `95_test_vectors.md` section 0 (DESIGN CHOICE, log 1). The statements `DecodeSampleWords` and
`InvHoldsAtReset` are about this configuration; no other is.
-/

namespace Sys2Proof.Machine

/-- The status codes of R99. -/
def standardTwCodes : TwCodes :=
  { mask := 0xF8#8, start := 0x08#8, repStart := 0x10#8, slawAck := 0x18#8, txdataAck := 0x28#8
    slarAck := 0x40#8, rxdataAck := 0x50#8, rxdataNack := 0x58#8 }

/-- The answer values of R105. -/
def standardAnswers : StoAnswers :=
  { idle := 0x01#8, ready := 0x00#8, filler := 0xFF#8, dataToken := 0xFE#8, respMask := 0x1F#8
    respAccepted := 0x05#8, busy := 0x00#8 }

/-- `WAYPOINTS[0]` of configuration T. -/
def standardWaypoint0 : Waypoint :=
  { throttle := .fwd 0, posX := 0x41A00000#32, posY := 0#32, boundX := 0x41200000#32, boundY := 0#32
    normU := 0#32, normV := 0xBF800000#32, trust := 0x3F800000#32 }

/-- `WAYPOINTS[1]` of configuration T. -/
def standardWaypoint1 : Waypoint :=
  { throttle := .fwd 1, posX := 0x41A00000#32, posY := 0x41A00000#32, boundX := 0x41A00000#32, boundY := 0x41200000#32
    normU := 0x3F800000#32, normV := 0#32, trust := 0x3F800000#32 }

/-- Configuration T of `95_test_vectors.md` section 0; it agrees with every default of R8. -/
def standardConfig : Config :=
  { nSlots := 4, nRaw := 4, sentenceCap := 84
    typeRmc := [0x24#8, 0x47#8, 0x50#8, 0x52#8, 0x4D#8, 0x43#8]
    nofixSentinel := 0x30#8, validSentinel := 0x41#8
    refLat := 0x42400000#32, refLon := 0x41300000#32
    mPerDegLat := 0x47D96C00#32, mPerDegLon := 0x47917BCF#32
    headingAddr := 0x60#8, headingReg := 0x02#8, headingErr := 0xFFFF#16
    twCodes := standardTwCodes
    encDirALeadsB := true, metersPerTick := 0x3F000000#32
    schedBits := 16, cycleTicks := 20000
    waypoints := [standardWaypoint0, standardWaypoint1]
    neutralUs := 1500#16, fwdUs := [1600#16, 1700#16], revUs := [1400#16, 1300#16], nClasses := 2
    stepFromFwd := 100, stepFromRev := 50, revRampStep := 40
    preReverseUs := 1500#16, preReverseHold := 2
    steerMin := 0xBF000000#32, steerMax := 0x3F000000#32
    steerCenterUs := 1500#16, steerUsPerRad := 0x44480000#32
    ticksPerUs := 2, startupPulses := 3
    blockSize := 512, guardPrefix := 0xDEADBEEF#32, guardSuffix := 0xBAADF00D#32
    cmdHeader := 0x40#8, answers := standardAnswers
    respRetryMax := 8, opcondRetryMax := 10, tokenRetryMax := 8, busyRetryMax := 8
    gateTest := .cross, overflowLatch := false, busyIgnored := false }

end Sys2Proof.Machine
end

