-- ==== Sys2Proof/Syntax.lean ====
section
/-!
DEFINITION. The instructions: one constructor for each row of `spec/opcode_table.json`, the 35 operations of format `OP8`
(`30_encoding.md` rule R108) and the 26 decoder arms and command frames of the other five formats.
-/

namespace Sys2Proof

/-- The six formats in which a row of the table can arrive (`30_encoding.md`, opening). `REC` is a format the block only
emits (R107). -/
inductive Format where
  /-- the operation-select code and its operands (R108) -/
  | op8
  /-- one received byte (R90) -/
  | rxByte
  /-- a sentence line, sorted by its first six bytes (R92) -/
  | type6
  /-- one two-wire bus event (R99) -/
  | twEvt
  /-- one quadrature transition code (R101) -/
  | qCode
  /-- one storage command frame (R102) -/
  | cmd48
  deriving DecidableEq, Repr

/-- An encoded instruction: its format and its bytes in the order they stand on the wire or in the trace. -/
structure Wire where
  fmt : Format
  bytes : List Byte
  deriving DecidableEq, Repr

/-- The operations and arms of `spec/opcode_table.json`, in the table's order. -/
inductive Instr where
  /-- `SCH.BEGIN`, R121 -/
  | schBegin
  /-- `SCH.WAIT`, R124 -/
  | schWait
  /-- `SCH.TICK`, R122 -/
  | schTick
  /-- `SCH.OVF`, R123 -/
  | schOvf
  /-- `SCH.STCLR`, R126 -/
  | schStclr
  /-- `FRM.RX b`, R136 -/
  | frmRx (b : Byte)
  /-- `FRM.DRAIN`, R142 -/
  | frmDrain
  /-- `PRS.CHK line`, R158 -/
  | prsChk (line : List Byte)
  /-- `PRS.PARSE line`, R162 -/
  | prsParse (line : List Byte)
  /-- `PRS.GGA line`, R164 -/
  | prsGga (line : List Byte)
  /-- `PRS.RMC line`, R168 -/
  | prsRmc (line : List Byte)
  /-- `HDG.BEGIN`, R188 -/
  | hdgBegin
  /-- `HDG.EVT status, data`, R189 -/
  | hdgEvt (status data : Byte)
  /-- `HDG.POLL`, R198 -/
  | hdgPoll
  /-- `ENC.EDGE ab`, R206 -/
  | encEdge (ab : BitVec 2)
  /-- `ENC.DRAIN`, R212 -/
  | encDrain
  /-- `EST.UPDATE`, R221 -/
  | estUpdate
  /-- `GDE.CROSSED wp, pos`, R233 -/
  | gdeCrossed (wp : Byte) (px py : F32)
  /-- `GDE.ADVANCE`, R234 -/
  | gdeAdvance
  /-- `GDE.ANGLE pos, heading`, R235 -/
  | gdeAngle (px py heading : F32)
  /-- `GDE.UPDATE`, R236 -/
  | gdeUpdate
  /-- `ACT.FWD c`, R248 -/
  | actFwd (c : Byte)
  /-- `ACT.STOP`, R250 -/
  | actStop
  /-- `ACT.REV c`, R252 -/
  | actRev (c : Byte)
  /-- `ACT.STEER angle`, R255 -/
  | actSteer (angle : F32)
  /-- `ACT.UPDATE`, R262 -/
  | actUpdate
  /-- `ACT.STARTUP`, R264 -/
  | actStartup
  /-- `STO.CMD cmd, arg, trail`, R278 -/
  | stoCmd (cmd : BitVec 6) (arg : U32) (trail : Byte)
  /-- `STO.INIT`, R289 -/
  | stoInit
  /-- `STO.FIND`, R292 -/
  | stoFind
  /-- `STO.READBLK addr`, R290 -/
  | stoReadblk (addr : U32)
  /-- `STO.WRITE`, R295 -/
  | stoWrite
  /-- `PLS.START ch`, R258 -/
  | plsStart (ch : Channel)
  /-- `PLS.MATCH ch`, R260 -/
  | plsMatch (ch : Channel)
  /-- `PLS.TICK ch`, R259 -/
  | plsTick (ch : Channel)
  /-- `FRM.RX.START`: the byte `$` is received, R138 -/
  | frmRxStart
  /-- `FRM.RX.TERM`: the byte `\n` is received, R140 -/
  | frmRxTerm
  /-- `FRM.RX.DATA`: another byte is received, R139 -/
  | frmRxData (b : Byte)
  /-- `PRS.PARSE.GGA`: a line of type `$GPGGA`; `rest` is the line after its type, R164 -/
  | prsParseGga (rest : List Byte)
  /-- `PRS.PARSE.RMC`: a line of type `TYPE_RMC`; `rest` is the line after its type, R168 -/
  | prsParseRmc (rest : List Byte)
  /-- `PRS.PARSE.IGNORE`: a line of any other type, R162 -/
  | prsParseIgnore (line : List Byte)
  /-- `HDG.EVT.START`, R190 -/
  | hdgEvtStart (status data : Byte)
  /-- `HDG.EVT.REPSTART`, R193 -/
  | hdgEvtRepstart (status data : Byte)
  /-- `HDG.EVT.SLAW_ACK`, R191 -/
  | hdgEvtSlawAck (status data : Byte)
  /-- `HDG.EVT.TXDATA_ACK`, R192 -/
  | hdgEvtTxdataAck (status data : Byte)
  /-- `HDG.EVT.SLAR_ACK`, R194 -/
  | hdgEvtSlarAck (status data : Byte)
  /-- `HDG.EVT.RXDATA_ACK`, R195 -/
  | hdgEvtRxdataAck (status data : Byte)
  /-- `HDG.EVT.RXDATA_NACK`, R197 -/
  | hdgEvtRxdataNack (status data : Byte)
  /-- `HDG.EVT.OTHER`, R196 -/
  | hdgEvtOther (status data : Byte)
  /-- `ENC.EDGE.NOCHG`, R208 -/
  | encEdgeNochg
  /-- `ENC.EDGE.B`, R211 -/
  | encEdgeB
  /-- `ENC.EDGE.A`, R210 -/
  | encEdgeA
  /-- `ENC.EDGE.BOTH`, R209 -/
  | encEdgeBoth
  /-- `STO.CMD.RESET`, R279 -/
  | stoCmdReset
  /-- `STO.CMD.IFCOND`, R280 -/
  | stoCmdIfcond
  /-- `STO.CMD.APP`, R281 -/
  | stoCmdApp
  /-- `STO.CMD.OPCOND`, R282 -/
  | stoCmdOpcond
  /-- `STO.CMD.READOCR`, R283 -/
  | stoCmdReadocr
  /-- `STO.CMD.READCSD`, R285 -/
  | stoCmdReadcsd
  /-- `STO.CMD.READBLK addr`, R286 -/
  | stoCmdReadblk (addr : U32)
  /-- `STO.CMD.WRITEBLK addr`, R287 -/
  | stoCmdWriteblk (addr : U32)
  deriving DecidableEq, Repr

end Sys2Proof
end

