-- ==== Sys2Proof/Machine/F32.lean ====
section
/-!
DEFINITION. The floating type of `00_scope.md` rule R12: IEEE 754 binary32, the four operations correctly rounded to nearest,
ties to even. A finite value is an exact integer number of units of 2^-149; an operation computes exactly and narrows once.
-/

namespace Sys2Proof.Machine

/-- 2^149: one, in units of the least binary32 value. -/
def f32One : Nat := 2 ^ 149

/-- The exponent field. -/
def f32Exp (x : F32) : Nat := x.toNat / 2 ^ 23 % 256
/-- The fraction field. -/
def f32Frac (x : F32) : Nat := x.toNat % 2 ^ 23
/-- The sign bit. -/
def f32Sign (x : F32) : Bool := x.msb

/-- Not a number. -/
def f32IsNan (x : F32) : Bool := f32Exp x == 255 && f32Frac x != 0
/-- An infinity. -/
def f32IsInf (x : F32) : Bool := f32Exp x == 255 && f32Frac x == 0

/-- The magnitude of a value in units of 2^-149; of an infinity, more than every finite magnitude. -/
def f32Mag (x : F32) : Nat :=
  if f32Exp x = 0 then f32Frac x else (2 ^ 23 + f32Frac x) * 2 ^ (f32Exp x - 1)

/-- The signed value in units of 2^-149. -/
def f32Units (x : F32) : Int := if f32Sign x then -(f32Mag x : Int) else f32Mag x

/-- A quotient rounded to the nearest integer, ties to even. -/
def roundDiv (num den : Nat) : Nat :=
  let q := num / den
  let r := num % den
  if den < 2 * r ∨ (2 * r = den ∧ q % 2 = 1) then q + 1 else q

/-- The 31-bit pattern of the binary32 magnitude nearest to `num / den` units, ties to even, infinity when it is too large
(R12). -/
def roundMag (num den : Nat) : Nat :=
  let k := Nat.log2 (num / den) - 23
  min (k * 2 ^ 23 + roundDiv num (den * 2 ^ k)) 0x7F800000

/-- A pattern from its sign and its 31 lower bits. -/
def f32Pack (sign : Bool) (p : Nat) : F32 := BitVec.ofNat 32 ((if sign then 2 ^ 31 else 0) + p)

/-- Signed zeros and infinities. -/
def f32Zero (sign : Bool) : F32 := f32Pack sign 0
def f32Inf (sign : Bool) : F32 := f32Pack sign 0x7F800000

/-- The NaN that operation number `op` returns on `a` and `b`: a quiet NaN whose sign and payload are free. -/
def f32Nan (op : Nat) (a b : F32) : F32 :=
  let f := (Config.nanBits op a b).toNat
  f32Pack (f / 2 ^ 22 == 1) (0x7FC00000 + f % 2 ^ 22)

/-- Negation: the sign bit alone, so the negation of +0.0 is -0.0 (R164). -/
def f32Neg (x : F32) : F32 := x ^^^ 0x80000000#32

/-- The sum of two values that are not NaN. -/
def f32AddNum (op : Nat) (a b : F32) : F32 :=
  if f32IsInf a then
    if f32IsInf b && (f32Sign a != f32Sign b) then f32Nan op a b else a
  else if f32IsInf b then b
  else
    let u := f32Units a + f32Units b
    if u = 0 then f32Zero (f32Sign a && f32Sign b)
    else f32Pack (decide (u < 0)) (roundMag u.natAbs 1)

/-- `a + b` (R12). -/
def f32Add (a b : F32) : F32 :=
  if f32IsNan a || f32IsNan b then f32Nan 0 a b else f32AddNum 0 a b

/-- `a - b` (R12). -/
def f32Sub (a b : F32) : F32 :=
  if f32IsNan a || f32IsNan b then f32Nan 1 a b else f32AddNum 1 a (f32Neg b)

/-- `a * b` (R12). -/
def f32Mul (a b : F32) : F32 :=
  let sign := f32Sign a != f32Sign b
  if f32IsNan a || f32IsNan b then f32Nan 2 a b
  else if f32IsInf a || f32IsInf b then
    if f32Mag a = 0 ∨ f32Mag b = 0 then f32Nan 2 a b else f32Inf sign
  else f32Pack sign (roundMag (f32Mag a * f32Mag b) f32One)

/-- `a / b` (R12). -/
def f32Div (a b : F32) : F32 :=
  let sign := f32Sign a != f32Sign b
  if f32IsNan a || f32IsNan b then f32Nan 3 a b
  else if f32IsInf a then
    if f32IsInf b then f32Nan 3 a b else f32Inf sign
  else if f32IsInf b then f32Zero sign
  else if f32Mag b = 0 then
    if f32Mag a = 0 then f32Nan 3 a b else f32Inf sign
  else f32Pack sign (roundMag (f32Mag a * f32One) (f32Mag b))

/-- `a < b`; false when either is not a number (R233). -/
def f32Lt (a b : F32) : Bool :=
  !f32IsNan a && !f32IsNan b && decide (f32Units a < f32Units b)

/-- `a == b` as numbers: the two zeros are equal, a NaN equals nothing. -/
def f32Eq (a b : F32) : Bool :=
  !f32IsNan a && !f32IsNan b && decide (f32Units a = f32Units b)

/-- `floor` (R165), exact; the sign of a zero is kept. Of an infinity R165 and R12 state no value: it is free (log 40). -/
def f32Floor (x : F32) : F32 :=
  if f32IsNan x then f32Nan 4 x x
  else if f32IsInf x then Config.floorInf x
  else
    let whole := f32Mag x / f32One
    let n := if f32Sign x ∧ f32Mag x % f32One ≠ 0 then whole + 1 else whole
    f32Pack (f32Sign x) (roundMag (n * f32One) 1)

/-- The conversion of an integer; exact for every u16 and i16 (R115). -/
def f32OfInt (i : Int) : F32 :=
  if i = 0 then f32Zero false else f32Pack (decide (i < 0)) (roundMag (i.natAbs * f32One) 1)

/-- `to_u16`: rounded to the nearest integer, ties to even (R255). Where that is not a u16 the rule states no value. -/
def f32ToU16 (x : F32) : U16 :=
  let n := roundDiv (f32Mag x) f32One
  if f32IsNan x || f32IsInf x || (f32Sign x && n != 0) || decide (65535 < n) then Config.toU16Other x
  else BitVec.ofNat 16 n

/-- Whether `to_u16` of a value is a u16 at all (R357 (f)). -/
def f32FitsU16 (x : F32) : Bool :=
  !(f32IsNan x || f32IsInf x || (f32Sign x && roundDiv (f32Mag x) f32One != 0)
    || decide (65535 < roundDiv (f32Mag x) f32One))

/-- The binary32 value nearest to `digits / 10^scale`, ties to even (R160). R160 does not state the sign of a result of zero after a
minus sign: `decSigned` leaves it free (log 14). -/
def f32OfDecimal (sign : Bool) (digits scale : Nat) : F32 :=
  f32Pack sign (roundMag (digits * f32One) (10 ^ scale))

/-! ## The configuration functions

R12 assumes of `cos`, `sin`, `asin` and `sqrt` no law "except the named properties a rule states". Each definition below has those
properties (log 13) and takes everything else from a free function of the operand. -/

/-- One, and the two neighbours of pi/2 among the binary32 values: the greatest below it and the nearest to it, just above. -/
def f32OneBits : Nat := 0x3F800000
def f32HalfPiBelow : Nat := 0x3FC90FDA
def f32HalfPi : Nat := 0x3FC90FDB

/-- A value of a given sign whose magnitude, as a pattern, lies within `lo` and `hi`; where it lies in them `free` says. -/
def f32Within (sign : Bool) (lo hi : Nat) (free : F32) : F32 := f32Pack sign (max lo (min (free.toNat % 2 ^ 31) hi))

/-- A zero, +0.0 for the operand +0.0; its sign is free for -0.0. -/
def f32ZeroLike (x free : F32) : F32 := f32Zero (f32Sign x && f32Sign free)

/-- A component of the heading unit vector (R235), whose magnitude is at most 1; free where the heading is not finite. -/
def unitComponent (x atZero free : F32) : F32 :=
  if f32Exp x = 255 then free
  else if f32Mag x = 0 then atZero
  else f32Within (f32Sign free) 0 f32OneBits free

/-- `cos` (R12): 1 at 0 (R221 (h)). -/
def f32Cos (x : F32) : F32 := unitComponent x (f32Pack false f32OneBits) (Config.cos x)

/-- `sin` (R12): 0 at 0 (R221 (h)). -/
def f32Sin (x : F32) : F32 := unitComponent x (f32ZeroLike x (Config.sin x)) (Config.sin x)

/-- `asin` (R12) with the properties of R235: 0 at 0, ±pi/2 up to its last place (U20) at ±1, between them the sign of the operand
and a magnitude within pi/2. Of a NaN it is a NaN or a value within [-pi/2, +pi/2]. -/
def f32Asin (r : F32) : F32 :=
  let free := Config.asin r
  if f32IsNan r then if f32IsNan free then free else f32Within (f32Sign free) 0 f32HalfPi free
  else if f32Mag r = 0 then f32ZeroLike r free
  else if f32One ≤ f32Mag r then f32Within (f32Sign r) f32HalfPiBelow f32HalfPi free
  else f32Within (f32Sign r) 1 f32HalfPi free

/-- The greatest pattern at or above `p` that differs from it in the lowest `bits` bits alone and whose square is at most `x`. -/
def rootBelow (x : F32) : (bits p : Nat) → Nat
  | 0, p => p
  | bits + 1, p =>
    let q := p + 2 ^ bits
    rootBelow x bits (if f32Mag (f32Pack false q) ^ 2 ≤ f32Mag x * f32One then q else p)

/-- Whether the binary32 square of `y` is `x`. -/
def isRoot (x y : F32) : Bool := f32Mul y y == x

/-- A root of `x` where the pattern `q` is one: that value, or, where a neighbour has the same rounded square, as happens with
subnormal squares, the free one if it is a root. No rule says which root is taken there (log 13). -/
def rootNear (x : F32) (q : Nat) (free : F32) : F32 :=
  if (isRoot x (f32Pack false (q - 1)) || isRoot x (f32Pack false (q + 1))) && isRoot x free then free else f32Pack false q

/-- `sqrt` (R12) with the properties of a vector's length (R235): 0 at 0, a side of a square, else positive, and finite for a
finite operand. Of a NaN or a negative number it is free; so is which side it is where several values have one rounded square
(log 13). -/
def f32Sqrt (x : F32) : F32 :=
  let free := Config.sqrt x
  if f32IsNan x then free
  else if f32Mag x = 0 then f32ZeroLike x free
  else if f32Sign x then free
  else if f32IsInf x then f32Within false 1 0x7F800000 free
  else
    let p := rootBelow x 31 0
    let finite := f32Within false 1 0x7F7FFFFF free
    if isRoot x (f32Pack false p) then rootNear x p finite
    else if isRoot x (f32Pack false (p + 1)) then rootNear x (p + 1) finite
    else finite

end Sys2Proof.Machine
end

