-- ==== Sys2Proof/Machine/Operands.lean ====
section
/-!
DEFINITION. The operand forms of `30_encoding.md` rules R108 and R113 that name something in the configuration: a speed
class, a waypoint index, a steering angle.
-/

namespace Sys2Proof.Machine

/-- `FWD_US[c]`; a class outside `0 .. N_CLASSES-1` has no width (R248). -/
def fwdWidth (c : Config) (cls : Nat) : Option U16 := if cls < c.nClasses then c.fwdUs[cls]? else none

/-- `REV_US[c]` (R252). -/
def revWidth (c : Config) (cls : Nat) : Option U16 := if cls < c.nClasses then c.revUs[cls]? else none

/-- The position of the last table entry, where the terminal waypoint stands (R232). -/
def lastPosition (c : Config) : F32 × F32 :=
  match c.waypoints.getLast? with
  | some w => (w.posX, w.posY)
  | none => (0#32, 0#32)

/-- The terminal waypoint (R232). -/
def terminalWaypoint (c : Config) : Waypoint :=
  { throttle := .stop, posX := (lastPosition c).1, posY := (lastPosition c).2
    boundX := 0#32, boundY := 0#32, normU := 0#32, normV := 0#32, trust := 0#32 }

/-- `wp(i)` (R231): a table entry, the terminal waypoint at `TABLE_LEN`, and nothing beyond. -/
def waypointAt (c : Config) (i : Nat) : Option Waypoint :=
  if i < c.tableLen then c.waypoints[i]?
  else if i = c.tableLen then some (terminalWaypoint c)
  else none

/-- The clamp of R255: a NaN is centre, the travel limits bound the rest. -/
def clampAngle (c : Config) (angle : F32) : F32 :=
  let a := if f32IsNan angle then 0#32 else angle
  let a := if f32Lt a c.steerMin then c.steerMin else a
  if f32Lt c.steerMax a then c.steerMax else a

/-- The real-valued pulse width of an angle, before it is rounded to a u16 (R255). -/
def steerWidthF32 (c : Config) (a : F32) : F32 :=
  f32Add (f32OfInt c.steerCenterUs.toNat) (f32Mul a c.steerUsPerRad)

/-- The pulse width of a clamped angle (R255). -/
def steerWidth (c : Config) (a : F32) : U16 := f32ToU16 (steerWidthF32 c a)

end Sys2Proof.Machine
end

