-- ==== Sys2Proof/WellFormed.lean ====
section
/-!
DEFINITION. What a configuration must satisfy (`70_reset_and_hazards.md` rule R357), and which operands an instruction may
carry (`30_encoding.md` rules R108, R109, R113).
-/

namespace Sys2Proof.Config

open Sys2Proof.Machine

/-- Bytes of the record before the padding: the 12 leading bytes, the raw fields and the 74 bytes that follow (R21). -/
def recordPayload (c : Config) : Nat := 12 + c.nRaw * c.sentenceCap + 74

/-- R357 (a): the image fits the block, with the suffix in the last four bytes. -/
def okRecord (c : Config) : Bool := decide (c.recordPayload + 4 ≤ c.blockSize)

/-- R357 (b). -/
def okSlots (c : Config) : Bool := decide (8 ≤ c.sentenceCap) && decide (1 ≤ c.nSlots) && decide (c.nRaw ≤ c.nSlots)

/-- R357 (c). -/
def okTicks (c : Config) : Bool := decide (1 ≤ c.cycleTicks) && decide (c.cycleTicks < 2 ^ c.schedBits)

/-- A drive command names a class below `N_CLASSES`. -/
def okDrive (c : Config) : DriveCmd → Bool
  | .stop => true
  | .fwd k => decide (k < c.nClasses)
  | .rev k => decide (k < c.nClasses)

/-- R357 (d). -/
def okTable (c : Config) : Bool :=
  decide (1 ≤ c.tableLen) && decide (c.tableLen ≤ 254) && c.waypoints.all fun w => c.okDrive w.throttle

/-- R357 (e), with one width per class (R8). -/
def okThrottle (c : Config) : Bool :=
  decide (1 ≤ c.nClasses) && c.fwdUs.length == c.nClasses && c.revUs.length == c.nClasses
    && (c.fwdUs.all fun w => decide (c.neutralUs.toNat < w.toNat))
    && (c.revUs.all fun w => decide (w.toNat < c.neutralUs.toNat) && decide (1 ≤ w.toNat))
    && decide (1 ≤ c.stepFromFwd) && decide (1 ≤ c.stepFromRev) && decide (1 ≤ c.revRampStep)
    && decide (1 ≤ c.preReverseHold) && decide (c.preReverseHold ≤ 255) && decide (1 ≤ c.preReverseUs.toNat)

/-- The steering width of a limit lies in 1 .. 65535. -/
def okSteerWidth (c : Config) (a : F32) : Bool :=
  f32FitsU16 (steerWidthF32 c a) && decide (1 ≤ (steerWidth c a).toNat)

/-- R357 (f). -/
def okSteering (c : Config) : Bool :=
  !f32IsNan c.steerMin && !f32IsInf c.steerMin && !f32IsNan c.steerMax && !f32IsInf c.steerMax
    && !f32Lt 0#32 c.steerMin && !f32Lt c.steerMax 0#32
    && c.okSteerWidth c.steerMin && c.okSteerWidth c.steerMax

/-- A pulse width in ticks fits the compare register. -/
def okPulse (c : Config) (w : U16) : Bool := decide (w.toNat * c.ticksPerUs ≤ 65535)

/-- R357 (g): every width the block can put out. -/
def okPulses (c : Config) : Bool :=
  c.okPulse c.neutralUs && c.okPulse c.preReverseUs && c.okPulse c.steerCenterUs
    && c.fwdUs.all c.okPulse && c.revUs.all c.okPulse
    && c.okPulse (steerWidth c c.steerMin) && c.okPulse (steerWidth c c.steerMax)

/-- R357 (h). -/
def okRetries (c : Config) : Bool :=
  decide (1 ≤ c.respRetryMax) && decide (1 ≤ c.opcondRetryMax) && decide (1 ≤ c.tokenRetryMax) && decide (1 ≤ c.busyRetryMax)

/-- R357 (i). -/
def okGuard (c : Config) : Bool := c.guardPrefix != 0#32 && c.guardPrefix != 0xFFFFFFFF#32

/-- R357 (j). -/
def okHeading (c : Config) : Bool := decide (c.headingAddr.toNat < 0x80)

/-- The shapes the formats take for granted: `TYPE_RMC` is six bytes (R92), the command header is two bits above the command
index (R102). -/
def okFormats (c : Config) : Bool := c.typeRmc.length == 6 && c.cmdHeader &&& 0x3F#8 == 0#8

/-- Every condition of R357; a model refuses a configuration that breaks one. -/
def ok (c : Config) : Bool :=
  c.okRecord && c.okSlots && c.okTicks && c.okTable && c.okThrottle && c.okSteering && c.okPulses && c.okRetries
    && c.okGuard && c.okHeading && c.okFormats

end Sys2Proof.Config

namespace Sys2Proof.Instr

open Sys2Proof.Machine

/-- A line operand is a buffer of `SENTENCE_CAP` bytes (R108, R113). -/
def lineOk (c : Config) (line : List Byte) : Bool := line.length == c.sentenceCap

/-- The operands an instruction may carry (R90, R92, R99, R108, R113, R278). -/
def wellFormed (c : Config) : Instr → Bool
  | .schBegin | .schWait | .schTick | .schOvf | .schStclr => true
  | .frmRx _ | .frmDrain => true
  | .prsChk line | .prsParse line | .prsGga line | .prsRmc line => lineOk c line
  | .hdgBegin | .hdgEvt _ _ | .hdgPoll => true
  | .encEdge _ | .encDrain | .estUpdate => true
  | .gdeCrossed wp _ _ => decide (wp.toNat ≤ c.tableLen)
  | .gdeAdvance | .gdeAngle _ _ _ | .gdeUpdate => true
  | .actFwd k | .actRev k => decide (k.toNat < c.nClasses)
  | .actStop | .actSteer _ | .actUpdate | .actStartup => true
  | .stoCmd _ _ _ | .stoInit | .stoFind | .stoReadblk _ | .stoWrite => true
  | .plsStart _ | .plsMatch _ | .plsTick _ => true
  | .frmRxStart | .frmRxTerm => true
  | .frmRxData b => rxClass b == .data
  | .prsParseGga rest => rest.length + 6 == c.sentenceCap
  | .prsParseRmc rest => rest.length + 6 == c.sentenceCap && c.typeRmc.length == 6 && c.typeRmc != typeGga
  | .prsParseIgnore line => lineOk c line && line.take 6 != typeGga && line.take 6 != c.typeRmc
  | .hdgEvtStart st _ => twClass c.twCodes st == .start
  | .hdgEvtRepstart st _ => twClass c.twCodes st == .repStart
  | .hdgEvtSlawAck st _ => twClass c.twCodes st == .slawAck
  | .hdgEvtTxdataAck st _ => twClass c.twCodes st == .txdataAck
  | .hdgEvtSlarAck st _ => twClass c.twCodes st == .slarAck
  | .hdgEvtRxdataAck st _ => twClass c.twCodes st == .rxdataAck
  | .hdgEvtRxdataNack st _ => twClass c.twCodes st == .rxdataNack
  | .hdgEvtOther st _ => twClass c.twCodes st == .other
  | .encEdgeNochg | .encEdgeB | .encEdgeA | .encEdgeBoth => true
  | .stoCmdReset | .stoCmdIfcond | .stoCmdApp | .stoCmdOpcond | .stoCmdReadocr | .stoCmdReadcsd => true
  | .stoCmdReadblk _ | .stoCmdWriteblk _ => true

end Sys2Proof.Instr
end

