-- ==== Sys2Proof/Decode.lean ====
section
/-!
DEFINITION. Decoding and encoding of the six formats (`30_encoding.md` rules R90, R92, R99, R101, R102, R108, R109). A decoder
reads one instruction from the front of a byte string and returns the rest of it, or refuses by name.
-/

namespace Sys2Proof

open Sys2Proof.Machine

/-- Why a byte string names no instruction. -/
inductive DecodeError where
  /-- the string ends before the instruction does -/
  | truncated
  /-- an `OP8` code that names no operation (R109) -/
  | reservedCode
  /-- an operand value with no meaning: a channel above 1, a sample above 3, a command index above 0x3F (R108) -/
  | reservedOperand
  /-- a command frame that is none of the eight (R103, R109) -/
  | unknownFrame
  deriving DecidableEq, Repr

/-- The first `n` bytes and what follows them. -/
def takeBytes (n : Nat) (bs : List Byte) : Except DecodeError (List Byte × List Byte) :=
  if n ≤ bs.length then .ok (bs.take n, bs.drop n) else .error .truncated

/-- An operation without operands. -/
def decodePlain (i : Instr) (bs : List Byte) : Except DecodeError (Instr × List Byte) := .ok (i, bs)

/-- An operation with one byte operand (R108). -/
def decodeByte (f : Byte → Instr) : List Byte → Except DecodeError (Instr × List Byte)
  | b :: rest => .ok (f b, rest)
  | [] => .error .truncated

/-- An operation with a line operand of `SENTENCE_CAP` bytes (R108). -/
def decodeLine (c : Config) (f : List Byte → Instr) (bs : List Byte) : Except DecodeError (Instr × List Byte) :=
  (takeBytes c.sentenceCap bs).map fun p => (f p.1, p.2)

/-- An operation with a channel operand (R108, R113). -/
def decodeChannel (f : Channel → Instr) : List Byte → Except DecodeError (Instr × List Byte)
  | b :: rest =>
    if b = 0#8 then .ok (f .steering, rest)
    else if b = 1#8 then .ok (f .throttle, rest)
    else .error .reservedOperand
  | [] => .error .truncated

/-- An operation with a two-bit sample (R108). -/
def decodeSample (f : BitVec 2 → Instr) : List Byte → Except DecodeError (Instr × List Byte)
  | b :: rest => if b.toNat < 4 then .ok (f (b.truncate 2), rest) else .error .reservedOperand
  | [] => .error .truncated

/-- An operation with a u32 operand, most significant byte first (R108). -/
def decodeU32 (f : U32 → Instr) : List Byte → Except DecodeError (Instr × List Byte)
  | b0 :: b1 :: b2 :: b3 :: rest => .ok (f (ofBe32 b0 b1 b2 b3), rest)
  | _ => .error .truncated

/-- An operation with one `f32` operand, least significant byte first (R108). -/
def decodeF32 (f : F32 → Instr) : List Byte → Except DecodeError (Instr × List Byte)
  | b0 :: b1 :: b2 :: b3 :: rest => .ok (f (ofLe32 b0 b1 b2 b3), rest)
  | _ => .error .truncated

/-- `HDG.EVT`: two bytes (R113). -/
def decodeEvent (f : Byte → Byte → Instr) : List Byte → Except DecodeError (Instr × List Byte)
  | st :: data :: rest => .ok (f st data, rest)
  | _ => .error .truncated

/-- `GDE.CROSSED`: a waypoint index and a position (R108, R113). -/
def decodeCrossed : List Byte → Except DecodeError (Instr × List Byte)
  | w :: a0 :: a1 :: a2 :: a3 :: b0 :: b1 :: b2 :: b3 :: rest =>
    .ok (.gdeCrossed w (ofLe32 a0 a1 a2 a3) (ofLe32 b0 b1 b2 b3), rest)
  | _ => .error .truncated

/-- `GDE.ANGLE`: a position and a heading (R108, R113). -/
def decodeAngle : List Byte → Except DecodeError (Instr × List Byte)
  | a0 :: a1 :: a2 :: a3 :: b0 :: b1 :: b2 :: b3 :: h0 :: h1 :: h2 :: h3 :: rest =>
    .ok (.gdeAngle (ofLe32 a0 a1 a2 a3) (ofLe32 b0 b1 b2 b3) (ofLe32 h0 h1 h2 h3), rest)
  | _ => .error .truncated

/-- `STO.CMD`: the 6-bit index in a byte, the argument, the trailing byte (R108, R113). -/
def decodeCommand : List Byte → Except DecodeError (Instr × List Byte)
  | k :: a0 :: a1 :: a2 :: a3 :: t :: rest =>
    if k.toNat < 64 then .ok (.stoCmd (k.truncate 6) (ofBe32 a0 a1 a2 a3) t, rest) else .error .reservedOperand
  | _ => .error .truncated

/-- Format `OP8` (R108): the operation a code selects, with the operands that follow it. -/
def decodeOp8Code (c : Config) (code : Nat) (bs : List Byte) : Except DecodeError (Instr × List Byte) :=
  match code with
  | 0x00 => decodePlain .schBegin bs
  | 0x01 => decodePlain .schWait bs
  | 0x02 => decodePlain .schTick bs
  | 0x03 => decodePlain .schOvf bs
  | 0x04 => decodePlain .schStclr bs
  | 0x10 => decodeByte .frmRx bs
  | 0x11 => decodePlain .frmDrain bs
  | 0x20 => decodeLine c .prsChk bs
  | 0x21 => decodeLine c .prsParse bs
  | 0x22 => decodeLine c .prsGga bs
  | 0x23 => decodeLine c .prsRmc bs
  | 0x30 => decodePlain .hdgBegin bs
  | 0x31 => decodeEvent .hdgEvt bs
  | 0x32 => decodePlain .hdgPoll bs
  | 0x40 => decodeSample .encEdge bs
  | 0x41 => decodePlain .encDrain bs
  | 0x50 => decodePlain .estUpdate bs
  | 0x60 => decodeCrossed bs
  | 0x61 => decodePlain .gdeAdvance bs
  | 0x62 => decodeAngle bs
  | 0x63 => decodePlain .gdeUpdate bs
  | 0x70 => decodeByte .actFwd bs
  | 0x71 => decodePlain .actStop bs
  | 0x72 => decodeByte .actRev bs
  | 0x73 => decodeF32 .actSteer bs
  | 0x74 => decodePlain .actUpdate bs
  | 0x75 => decodePlain .actStartup bs
  | 0x80 => decodeCommand bs
  | 0x81 => decodePlain .stoInit bs
  | 0x82 => decodePlain .stoFind bs
  | 0x83 => decodeU32 .stoReadblk bs
  | 0x84 => decodePlain .stoWrite bs
  | 0x90 => decodeChannel .plsStart bs
  | 0x91 => decodeChannel .plsMatch bs
  | 0x92 => decodeChannel .plsTick bs
  | _ => .error .reservedCode

/-- Format `OP8`: the code byte, then its operands (R108). -/
def decodeOp8 (c : Config) : List Byte → Except DecodeError (Instr × List Byte)
  | code :: rest => decodeOp8Code c code.toNat rest
  | [] => .error .truncated

/-- Format `RXBYTE`: every value has a class (R90, R109). -/
def decodeRx : List Byte → Except DecodeError (Instr × List Byte)
  | b :: rest =>
    match rxClass b with
    | .start => .ok (.frmRxStart, rest)
    | .term => .ok (.frmRxTerm, rest)
    | .data => .ok (.frmRxData b, rest)
  | [] => .error .truncated

/-- Format `TYPE6`: a line, sorted by its first six bytes (R92). -/
def decodeType6 (c : Config) (bs : List Byte) : Except DecodeError (Instr × List Byte) :=
  (takeBytes c.sentenceCap bs).map fun p =>
    if p.1.take 6 = typeGga then (.prsParseGga (p.1.drop 6), p.2)
    else if p.1.take 6 = c.typeRmc then (.prsParseRmc (p.1.drop 6), p.2)
    else (.prsParseIgnore p.1, p.2)

/-- The arm a two-wire event class names (R99). -/
def twInstr (k : TwClass) (st data : Byte) : Instr :=
  match k with
  | .start => .hdgEvtStart st data
  | .repStart => .hdgEvtRepstart st data
  | .slawAck => .hdgEvtSlawAck st data
  | .txdataAck => .hdgEvtTxdataAck st data
  | .slarAck => .hdgEvtSlarAck st data
  | .rxdataAck => .hdgEvtRxdataAck st data
  | .rxdataNack => .hdgEvtRxdataNack st data
  | .other => .hdgEvtOther st data

/-- Format `TWEVT`: the status byte, then the data byte (R99). -/
def decodeTwEvt (c : Config) : List Byte → Except DecodeError (Instr × List Byte)
  | st :: data :: rest => .ok (twInstr (twClass c.twCodes st) st data, rest)
  | _ => .error .truncated

/-- Format `QCODE`: two bits in a byte (R101). -/
def decodeQCode : List Byte → Except DecodeError (Instr × List Byte)
  | b :: rest =>
    if b = 0#8 then .ok (.encEdgeNochg, rest)
    else if b = 1#8 then .ok (.encEdgeB, rest)
    else if b = 2#8 then .ok (.encEdgeA, rest)
    else if b = 3#8 then .ok (.encEdgeBoth, rest)
    else .error .reservedOperand
  | [] => .error .truncated

/-- The arm a command frame names, by the rows of R103. -/
def frameInstr (f : CmdFrame) : Option Instr :=
  if f = frameReset then some .stoCmdReset
  else if f = frameIfcond then some .stoCmdIfcond
  else if f = frameApp then some .stoCmdApp
  else if f = frameOpcond then some .stoCmdOpcond
  else if f = frameReadocr then some .stoCmdReadocr
  else if f = frameReadcsd then some .stoCmdReadcsd
  else if f = frameReadblk f.arg then some (.stoCmdReadblk f.arg)
  else if f = frameWriteblk f.arg then some (.stoCmdWriteblk f.arg)
  else none

/-- Format `CMD48`: six bytes, most significant first; the header bits must be the configuration's (R102). -/
def decodeCmd48 (c : Config) : List Byte → Except DecodeError (Instr × List Byte)
  | k :: a0 :: a1 :: a2 :: a3 :: t :: rest =>
    if k &&& 0xC0#8 = c.cmdHeader then
      match frameInstr ⟨k.truncate 6, ofBe32 a0 a1 a2 a3, t⟩ with
      | some i => .ok (i, rest)
      | none => .error .unknownFrame
    else .error .unknownFrame
  | _ => .error .truncated

/-- The decoder of each format. -/
def decode (c : Config) : Format → List Byte → Except DecodeError (Instr × List Byte)
  | .op8, bs => decodeOp8 c bs
  | .rxByte, bs => decodeRx bs
  | .type6, bs => decodeType6 c bs
  | .twEvt, bs => decodeTwEvt c bs
  | .qCode, bs => decodeQCode bs
  | .cmd48, bs => decodeCmd48 c bs

/-! ## The encoder -/

/-- An `OP8` entry: a code and its operand bytes (R108). -/
def op8 (code : Byte) (operands : List Byte) : Wire := ⟨.op8, code :: operands⟩

/-- A channel operand (R113). -/
def channelByte : Channel → Byte
  | .steering => 0#8
  | .throttle => 1#8

/-- The bytes of an instruction in its format (R90, R92, R99, R101, R102, R108). -/
def encode (c : Config) : Instr → Wire
  | .schBegin => op8 0x00#8 []
  | .schWait => op8 0x01#8 []
  | .schTick => op8 0x02#8 []
  | .schOvf => op8 0x03#8 []
  | .schStclr => op8 0x04#8 []
  | .frmRx b => op8 0x10#8 [b]
  | .frmDrain => op8 0x11#8 []
  | .prsChk line => op8 0x20#8 line
  | .prsParse line => op8 0x21#8 line
  | .prsGga line => op8 0x22#8 line
  | .prsRmc line => op8 0x23#8 line
  | .hdgBegin => op8 0x30#8 []
  | .hdgEvt st data => op8 0x31#8 [st, data]
  | .hdgPoll => op8 0x32#8 []
  | .encEdge ab => op8 0x40#8 [ab.zeroExtend 8]
  | .encDrain => op8 0x41#8 []
  | .estUpdate => op8 0x50#8 []
  | .gdeCrossed w px py => op8 0x60#8 (w :: (le32 px ++ le32 py))
  | .gdeAdvance => op8 0x61#8 []
  | .gdeAngle px py h => op8 0x62#8 (le32 px ++ le32 py ++ le32 h)
  | .gdeUpdate => op8 0x63#8 []
  | .actFwd k => op8 0x70#8 [k]
  | .actStop => op8 0x71#8 []
  | .actRev k => op8 0x72#8 [k]
  | .actSteer a => op8 0x73#8 (le32 a)
  | .actUpdate => op8 0x74#8 []
  | .actStartup => op8 0x75#8 []
  | .stoCmd cmd arg trail => op8 0x80#8 (cmd.zeroExtend 8 :: (be32 arg ++ [trail]))
  | .stoInit => op8 0x81#8 []
  | .stoFind => op8 0x82#8 []
  | .stoReadblk addr => op8 0x83#8 (be32 addr)
  | .stoWrite => op8 0x84#8 []
  | .plsStart ch => op8 0x90#8 [channelByte ch]
  | .plsMatch ch => op8 0x91#8 [channelByte ch]
  | .plsTick ch => op8 0x92#8 [channelByte ch]
  | .frmRxStart => ⟨.rxByte, [startMarker]⟩
  | .frmRxTerm => ⟨.rxByte, [terminator]⟩
  | .frmRxData b => ⟨.rxByte, [b]⟩
  | .prsParseGga rest => ⟨.type6, typeGga ++ rest⟩
  | .prsParseRmc rest => ⟨.type6, c.typeRmc ++ rest⟩
  | .prsParseIgnore line => ⟨.type6, line⟩
  | .hdgEvtStart st data => ⟨.twEvt, [st, data]⟩
  | .hdgEvtRepstart st data => ⟨.twEvt, [st, data]⟩
  | .hdgEvtSlawAck st data => ⟨.twEvt, [st, data]⟩
  | .hdgEvtTxdataAck st data => ⟨.twEvt, [st, data]⟩
  | .hdgEvtSlarAck st data => ⟨.twEvt, [st, data]⟩
  | .hdgEvtRxdataAck st data => ⟨.twEvt, [st, data]⟩
  | .hdgEvtRxdataNack st data => ⟨.twEvt, [st, data]⟩
  | .hdgEvtOther st data => ⟨.twEvt, [st, data]⟩
  | .encEdgeNochg => ⟨.qCode, [0#8]⟩
  | .encEdgeB => ⟨.qCode, [1#8]⟩
  | .encEdgeA => ⟨.qCode, [2#8]⟩
  | .encEdgeBoth => ⟨.qCode, [3#8]⟩
  | .stoCmdReset => ⟨.cmd48, frameBytes c frameReset⟩
  | .stoCmdIfcond => ⟨.cmd48, frameBytes c frameIfcond⟩
  | .stoCmdApp => ⟨.cmd48, frameBytes c frameApp⟩
  | .stoCmdOpcond => ⟨.cmd48, frameBytes c frameOpcond⟩
  | .stoCmdReadocr => ⟨.cmd48, frameBytes c frameReadocr⟩
  | .stoCmdReadcsd => ⟨.cmd48, frameBytes c frameReadcsd⟩
  | .stoCmdReadblk addr => ⟨.cmd48, frameBytes c (frameReadblk addr)⟩
  | .stoCmdWriteblk addr => ⟨.cmd48, frameBytes c (frameWriteblk addr)⟩

/-! ## Words of the opcode table -/

/-- The bytes of a table word, the first byte being bits 7..0. -/
def wordBytes (n w : Nat) : List Byte := (List.range n).map fun k => BitVec.ofNat 8 (w >>> (8 * k))

/-- The longest instruction: a code and a line. -/
def longestInstr (c : Config) : Nat := max (c.sentenceCap + 1) 13

/-- Zero operand bytes up to the longest instruction. -/
def padOperands (c : Config) (bs : List Byte) : List Byte := bs ++ List.replicate (longestInstr c) 0#8

/-- The format in which a table word is read, and its bytes. The table gives a word no format, so the formats are tried in
the table's order among those of the word's width (log 7): 48 bits, a command frame or else a line type, most significant
byte first; 16 bits, a two-wire event, status in bits 15..8; 2 bits, a quadrature code; 8 bits, a listed `OP8` code, else
a start or terminator byte, else a listed two-wire status with data 0, else a data byte. -/
def tableWire (c : Config) (nbits w : Nat) : Wire :=
  let bs := wordBytes ((nbits + 7) / 8) w
  if nbits ≤ 2 then ⟨.qCode, bs⟩
  else if nbits ≤ 8 then
    match decodeOp8 c (padOperands c bs) with
    | .ok _ => ⟨.op8, padOperands c bs⟩
    | .error _ =>
      match bs with
      | [b] =>
        if rxClass b = .data ∧ twClass c.twCodes b ≠ .other then ⟨.twEvt, [b, 0#8]⟩ else ⟨.rxByte, [b]⟩
      | _ => ⟨.op8, bs⟩
  else if nbits ≤ 16 then ⟨.twEvt, bs.reverse⟩
  else
    match decodeCmd48 c bs.reverse with
    | .ok _ => ⟨.cmd48, bs.reverse⟩
    | .error _ => ⟨.type6, padOperands c bs.reverse⟩

/-- A table word as one instruction and exactly its own bytes: the padding that the instruction does not use is cut off. -/
def decodeWire (c : Config) (x : Wire) : Option (Instr × Wire) :=
  match decode c x.fmt x.bytes with
  | .ok (i, rest) => some (i, ⟨x.fmt, x.bytes.take (x.bytes.length - rest.length)⟩)
  | .error _ => none

/-- The instruction the decoder reads from a word of the opcode table. -/
def decodeTableWord (nbits w : Nat) : Option Instr :=
  (decodeWire standardConfig (tableWire standardConfig nbits w)).map (·.1)

end Sys2Proof
end

