-- ==== Sys2Proof/Machine/Flags.lean ====
section
/-!
DEFINITION. The status word: the bit of each condition (`10_state.md` rule R23). Bits are set by OR; only `SCH.STCLR` clears.
-/

namespace Sys2Proof.Machine

/-- The bit numbers of R23. -/
def stGga : Nat := 0
def stRmc : Nat := 1
def stNobuf : Nat := 2
def stRestart : Nat := 3
def stOverflow : Nat := 4
def stChkfail : Nat := 5
def stHdgerr : Nat := 6
def stEncerr : Nat := 7
def stOverrun : Nat := 8

/-- The word with one bit set. -/
def statusBit (n : Nat) : U32 := 1#32 <<< n

/-- A status word with bit `n` ORed in when the condition holds (R23). -/
def orStatusIf (on : Bool) (n : Nat) (status : U32) : U32 := if on then status ||| statusBit n else status

/-- Bits 9 to 31 are reserved and read as 0 (R23). -/
def statusReservedClear (status : U32) : Bool := status &&& 0xFFFFFE00#32 == 0#32

end Sys2Proof.Machine
end

