-- ==== Sys2Proof/Machine/State.lean ====
section
/-!
DEFINITION. The state of the block as plain data (`10_state.md` rules R20 to R51), its reset value (R50), and the reasons a
step can stop.
-/

namespace Sys2Proof.Machine

/-! ## Memory -/

/-- Bytes by address, in one canonical form: addresses strictly rising, no entry equal to 0x00, which is what an unlisted
address reads as (R50: text and raw fields are all 0x00 at reset). -/
abbrev Memory := List Host.Cell

/-! ## Units -/

/-- The named fields of the SharedRecord (R21). The raw fields are bytes of memory; the padding is hard-wired zero. -/
structure SharedRecord where
  guardPrefix : U32
  cycle : U32
  status : U32
  gpsLat : F32
  gpsLon : F32
  gpsHdop : F32
  gpsAlt : F32
  gpsX : F32
  gpsY : F32
  gpsSpeed : F32
  gpsCourse : F32
  gpsDate : U32
  gpsMagvar : F32
  hdgRaw : U16
  hdgDeg : F32
  hdgRad : F32
  encTicks : U16
  encValid : Byte
  estX : F32
  estY : F32
  estHeading : F32
  wpIndex : Byte
  wpAngle : F32
  steerUs : U16
  throttleUs : U16
  guardSuffix : U32
  deriving DecidableEq, Repr

/-- The scheduler's counter and flag (R32). The counter is below 2^`SCHED_BITS`. -/
structure Scheduler where
  count : Nat
  overrun : Bool
  deriving DecidableEq, Repr

/-- The status of a slot: 0 `FREE`, 1 `CLAIMED`, 2 `READY` (R26). -/
inductive SlotStatus where
  | free
  | claimed
  | ready
  deriving DecidableEq, Repr

/-- The framer: slot statuses, the claim, the cursor, the three latches (R26 to R28); `dropping` is the flag of the switch
`OVERFLOW_LATCH` (D6). The text of the slots is memory. -/
structure Framer where
  slots : List SlotStatus
  cur : Option Nat
  w : Nat
  nobuf : Bool
  restart : Bool
  overflow : Bool
  dropping : Bool
  deriving DecidableEq, Repr

/-- The states of the heading driver, in the order of their codes 0 to 7 (R29). -/
inductive HState where
  | idle
  | addressedForWrite
  | registerSent
  | repeatStart
  | addressedForRead
  | highByteReceived
  | done
  | error
  deriving DecidableEq, Repr

/-- The heading driver (R29). -/
structure Heading where
  state : HState
  busy : Bool
  hi : Byte
  lo : Byte
  value : U16
  deriving DecidableEq, Repr

/-- One cell of the EncoderCounterPair (R30); `count` is an i16. -/
structure EncCell where
  error : Bool
  count : U16
  deriving DecidableEq, Repr

/-- The encoder: two cells, the active index, the previous sample (R30, R31). -/
structure Encoder where
  cell0 : EncCell
  cell1 : EncCell
  active : Fin 2
  qPrev : BitVec 2
  deriving DecidableEq, Repr

/-- The drive states, in the order of their codes 0 to 3 (R36). -/
inductive DriveState where
  | forward
  | neutral
  | reverse
  | preReverse
  deriving DecidableEq, Repr

/-- The actuation registers beside the two widths of the record (R36). -/
structure Actuation where
  drive : DriveState
  hold : Byte
  deriving DecidableEq, Repr

/-- One pulse generator (R37). -/
structure Pulse where
  out : Bool
  ocr : U16
  cnt : U16
  run : Bool
  deriving DecidableEq, Repr

/-- The StorageCursor, the bus registers and the two scratch buffers (R38 to R40). -/
structure Storage where
  nextBlock : U32
  capacityBlocks : U32
  enabled : Bool
  cs : Bool
  fast : Bool
  lead : List Byte
  csd : List Byte
  deriving DecidableEq, Repr

/-- A raised event that waits for its handler (R330, R331). -/
inductive Event where
  /-- `RX`, with the byte received -/
  | rx (b : Byte)
  /-- `TW`, with the status and the data byte -/
  | tw (status data : Byte)
  /-- `QE` -/
  | qe
  /-- `CM0` or `CM1` -/
  | cm (ch : Channel)
  /-- `OVF` -/
  | ovf
  deriving DecidableEq, Repr

/-- The common enable of the six sources and the pending events (R331). -/
structure Interrupts where
  enabled : Bool
  pending : List Event
  deriving DecidableEq, Repr

/-- The operations of the two-wire bus (R186). -/
inductive TwOp where
  | start
  | send (b : Byte)
  | recvAck
  | recvNack
  | stop
  deriving DecidableEq, Repr

/-- What the receive mode of the reference device is waiting for (R310). -/
inductive RefRecv where
  /-- not in receive mode -/
  | off
  /-- the data token of a write to a block -/
  | token (block : Nat)
  /-- data byte `i` of a write to a block -/
  | data (block i : Nat)
  /-- `left` ignored checksum bytes -/
  | tail (left : Nat)
  deriving DecidableEq, Repr

/-- The reference storage device (R310), a fixture of the environment. An unlisted byte of its blocks reads 0x00. -/
structure RefDevice where
  nb : Nat
  blk : Memory
  csd : List Byte
  ocr : List Byte
  idle : Bool
  warm : Nat
  busyN : Nat
  queue : List Byte
  frame : List Byte
  recv : RefRecv
  deriving DecidableEq, Repr

/-- The storage device of a run (R46, R276): unknown, a script of answers that then becomes unknown, or the reference
device. -/
inductive Device where
  | unknown
  | script (answers : List Byte)
  | reference (d : RefDevice)
  deriving DecidableEq, Repr

/-- Outside the block: input levels, the storage device, and what the two buses have carried, newest first (R46, R51). -/
structure Environment where
  qa : Bool
  qb : Bool
  runEn : Bool
  device : Device
  spiSent : List Byte
  twIssued : List TwOp
  deriving DecidableEq, Repr

/-- The result of `HDG.POLL` (R198). -/
inductive PollResult where
  | pending
  | ready (v : U16)
  | error
  deriving DecidableEq, Repr

/-- The value the last value-returning operation gave (R112, R113). -/
inductive Result where
  | none
  | flag (b : Bool)
  | poll (r : PollResult)
  | float (v : F32)
  /-- an answer byte, or `Timeout` -/
  | answer (r : Option Byte)
  /-- a 32-bit value, or a failure -/
  | word (v : Option U32)
  deriving DecidableEq, Repr

/-- The block and its surroundings: everything an operation can read or write. -/
structure Block where
  cfg : Config
  record : SharedRecord
  phase : BitVec 4
  sch : Scheduler
  frm : Framer
  hdg : Heading
  enc : Encoder
  act : Actuation
  steer : Pulse
  throttle : Pulse
  sto : Storage
  irq : Interrupts
  mem : Memory
  env : Environment
  ret : Result
  fresh : Nat
  deriving DecidableEq, Repr

/-! ## Control of the run -/

/-- The main-loop operations that other agents may interrupt between their micro-steps (R11, R67). -/
inductive LoopOp where
  | frmDrain
  | hdgPoll
  | encDrain
  | estUpdate
  | gdeUpdate
  | actUpdate
  | stoWrite
  | schStclr
  /-- `ACT.STARTUP` up to its first wait (R264) -/
  | actStartup
  /-- a later pulse of `ACT.STARTUP` up to its wait, and the pulses still to be started after it (R264) -/
  | startupPulse (left : Nat)
  | stoInit
  | hdgBegin
  deriving DecidableEq, Repr

/-- The main-loop operation in progress. -/
inductive Task where
  /-- an operation, and the results of the micro-steps it has made -/
  | op (which : LoopOp) (path : List Nat)
  /-- `ACT.STARTUP` in its wait, with the pulses still to be started (R264) -/
  | startup (left : Nat)
  deriving DecidableEq, Repr

/-- The next step of the boot sequence, or the cycle loop (R351). -/
inductive Boot where
  | reset
  | sample
  | enable
  | startup
  | init
  | begin
  | enter
  | loop
  deriving DecidableEq, Repr

/-- One entry of the script: an encoded operation, or an input. -/
inductive Input where
  | wire (w : Wire)
  | arrival (a : Arrival)
  deriving DecidableEq, Repr

/-- The whole state: the block, how far the boot sequence has come, the main-loop operation in progress, the inputs still to
be applied, and the counter of free choices. -/
structure State where
  blk : Block
  boot : Boot
  task : Option Task
  script : List Input
  clock : Nat
  deriving DecidableEq, Repr

/-! ## Why a step can stop -/

/-- Stops at something the spec says does not exist. -/
inductive Fault where
  /-- a store outside the `SENTENCE_CAP` bytes of a slot (R45, R130, R144 (f)); raised by `FRM.RX`; safe -/
  | slotAddress
  /-- a waypoint index above `TABLE_LEN` (R231); raised by `GDE.ADVANCE`, `GDE.ANGLE`, `GDE.UPDATE` and `ACT.UPDATE`; safe -/
  | waypointIndex
  /-- a sequencer phase 10 to 15, which is never reached (R24); raised by the main loop; safe -/
  | phaseReserved
  deriving DecidableEq, Repr

/-- Steps the model does not have. -/
inductive Refusal where
  /-- an instruction without a meaning; raised by `exec` alone; safe -/
  | notModelled (mnemonic : String)
  /-- bytes that name no instruction (R109); raised by the fetch of a script entry; safe -/
  | reservedEncoding
  /-- `HDG.BEGIN` against its caller's contract (R200, U3); raised by `HDG.BEGIN`, and by `HDG.POLL` when a bus event comes
  between its look at the driver and its `HDG.BEGIN`; safe -/
  | headingContract
  /-- a speed class outside `0 .. N_CLASSES-1` (R248 (b)); raised by `ACT.FWD`, `ACT.REV`, `ACT.UPDATE`; safe -/
  | speedClass
  /-- a waypoint operand above `TABLE_LEN` (R108, R231); raised by `GDE.CROSSED`; safe -/
  | waypointOperand
  /-- a configuration that R357 refuses; raised by `step`; safe -/
  | configuration
  deriving DecidableEq, Repr

/-! ## Reset -/

/-- The sample `qa ++ qb` of the quadrature inputs (R206). -/
def Environment.sample (e : Environment) : BitVec 2 := BitVec.ofBool e.qa ++ BitVec.ofBool e.qb

/-- The record at reset (R50). -/
def SharedRecord.reset (c : Config) : SharedRecord :=
  { guardPrefix := c.guardPrefix, cycle := 0#32, status := 0#32
    gpsLat := 0#32, gpsLon := 0#32, gpsHdop := 0#32, gpsAlt := 0#32, gpsX := 0#32, gpsY := 0#32
    gpsSpeed := 0#32, gpsCourse := 0#32, gpsDate := 0#32, gpsMagvar := 0#32
    hdgRaw := 0#16, hdgDeg := 0#32, hdgRad := 0#32, encTicks := 0#16, encValid := 0#8
    estX := 0#32, estY := 0#32, estHeading := 0#32, wpIndex := 0#8, wpAngle := 0#32
    steerUs := c.steerCenterUs, throttleUs := c.neutralUs, guardSuffix := c.guardSuffix }

/-- A pulse generator at reset (R50). -/
def Pulse.reset : Pulse := { out := false, ocr := 0#16, cnt := 0#16, run := false }

/-- Every register at its reset value (R50, R350), given the configuration and the surroundings, which `rst` does not reset
(R350, R355). `w`, `lead` and `csd` are "any" in R50 (log 3). -/
def Block.reset (c : Config) (e : Environment) (fresh : Nat) : Block :=
  { cfg := c
    record := SharedRecord.reset c
    phase := 0#4
    sch := { count := 0, overrun := false }
    frm := { slots := List.replicate c.nSlots .free, cur := none, w := 0, nobuf := false, restart := false
             overflow := false, dropping := false }
    hdg := { state := .idle, busy := false, hi := 0#8, lo := 0#8, value := 0#16 }
    enc := { cell0 := ⟨false, 0#16⟩, cell1 := ⟨false, 0#16⟩, active := 0, qPrev := e.sample }
    act := { drive := .neutral, hold := 0#8 }
    steer := Pulse.reset
    throttle := Pulse.reset
    sto := { nextBlock := 0#32, capacityBlocks := 0#32, enabled := false, cs := false, fast := false
             lead := List.replicate 4 0#8, csd := List.replicate 16 0#8 }
    irq := { enabled := false, pending := [] }
    mem := []
    env := e
    ret := .none
    fresh := fresh }

/-- The surroundings at power-up: levels the model names (log 4), an unknown storage device (log 5), nothing sent. -/
def Environment.reset : Environment :=
  { qa := false, qb := false, runEn := true, device := .unknown, spiSent := [], twIssued := [] }

/-- The machine right after reset: every register of R50, the boot sequence at its first step (R350, R351). -/
def State.reset : State :=
  { blk := Block.reset standardConfig Environment.reset 0
    boot := .reset, task := none, script := [], clock := 0 }

end Sys2Proof.Machine
end

