-- ==== Sys2Proof/Machine/Ops.lean ====
section
/-!
DEFINITION. The named operations over memory and registers that the meanings share: bytes of the address spaces (`10_state.md`
rule R45), the record image (R21, R63), the status word (R23), the events (`60_exceptions.md` rules R330 to R334), the two buses.
-/

namespace Sys2Proof.Machine

/-! ## Memory -/

/-- The byte at an address; an unlisted one is 0x00. -/
def memRead (a : Nat) : Memory → Byte
  | [] => 0#8
  | (x, v) :: rest => if a = x then v else memRead a rest

/-- A cell in front of a memory, left out when it holds what an unlisted address reads as. -/
def memCons (a : Nat) (v : Byte) (m : Memory) : Memory := if v = 0#8 then m else (a, v) :: m

/-- The memory with one byte written, in canonical form again. -/
def memWrite (a : Nat) (v : Byte) : Memory → Memory
  | [] => memCons a v []
  | (x, u) :: rest =>
    if a < x then memCons a v ((x, u) :: rest)
    else if a = x then memCons a v rest
    else (x, u) :: memWrite a v rest

/-- Bytes written to rising addresses from `a` on. -/
def memWriteList (a : Nat) : List Byte → Memory → Memory
  | [], m => m
  | v :: vs, m => memWriteList (a + 1) vs (memWrite a v m)

/-- `n` bytes read from rising addresses from `a` on. -/
def memReadList (a : Nat) (n : Nat) (m : Memory) : List Byte := (List.range n).map fun k => memRead (a + k) m

/-- Every listed address lies above `lo`, addresses rise, and no entry is 0x00. -/
def memRising (lo : Nat) : Memory → Bool
  | [] => true
  | (x, v) :: rest => decide (lo ≤ x) && v != 0#8 && memRising (x + 1) rest

/-- The canonical form. -/
def Memory.wf (m : Memory) : Bool := memRising 0 m

/-! ## The spaces `SLOT` and `REC` -/

/-- The address of byte `k` of slot `i` (R45; the numbering is the model's, log 26). -/
def slotAddr (c : Config) (i k : Nat) : Nat := i * c.sentenceCap + k

/-- The address of byte `k` of the raw field `i`; the raw fields follow the slots. -/
def rawAddr (c : Config) (i k : Nat) : Nat := (c.nSlots + i) * c.sentenceCap + k

/-- The `SENTENCE_CAP` bytes of a slot's text (R26). -/
def slotText (b : Block) (i : Nat) : List Byte := memReadList (slotAddr b.cfg i 0) b.cfg.sentenceCap b.mem

/-- The `SENTENCE_CAP` bytes of a raw field (R21). -/
def rawText (b : Block) (i : Nat) : List Byte := memReadList (rawAddr b.cfg i 0) b.cfg.sentenceCap b.mem

/-- One byte stored into a slot's text; outside the slot there is no such byte (R45, R144 (f)). -/
def storeSlot (i k : Nat) (v : Byte) (b : Block) : Except Fault Block :=
  if i < b.cfg.nSlots ∧ k < b.cfg.sentenceCap then .ok { b with mem := memWrite (slotAddr b.cfg i k) v b.mem }
  else .error .slotAddress

/-- A slot's status written (R26). -/
def setSlot (i : Nat) (st : SlotStatus) (b : Block) : Block :=
  { b with frm := { b.frm with slots := b.frm.slots.set i st } }

/-! ## The record image -/

/-- The fields that follow the raw fields, in the order of R21. -/
def recordTail (r : SharedRecord) : List Byte :=
  le32 r.gpsLat ++ le32 r.gpsLon ++ le32 r.gpsHdop ++ le32 r.gpsAlt ++ le32 r.gpsX ++ le32 r.gpsY
    ++ le32 r.gpsSpeed ++ le32 r.gpsCourse ++ le32 r.gpsDate ++ le32 r.gpsMagvar
    ++ le16 r.hdgRaw ++ le32 r.hdgDeg ++ le32 r.hdgRad ++ le16 r.encTicks ++ [r.encValid]
    ++ le32 r.estX ++ le32 r.estY ++ le32 r.estHeading ++ [r.wpIndex] ++ le32 r.wpAngle
    ++ le16 r.steerUs ++ le16 r.throttleUs

/-- The fields that stand before the padding (R21). -/
def recordFields (b : Block) : List Byte :=
  le32 b.record.guardPrefix ++ le32 b.record.cycle ++ le32 b.record.status
    ++ (List.range b.cfg.nRaw).flatMap (rawText b) ++ recordTail b.record

/-- The SharedRecord image of `BLOCK_SIZE` bytes: the fields without gaps, zero padding, the suffix in the last four bytes
(R21, R22, R63, R107). -/
def recordImage (b : Block) : List Byte :=
  let fields := recordFields b
  fields ++ List.replicate (b.cfg.blockSize - 4 - fields.length) 0#8 ++ le32 b.record.guardSuffix

/-- Byte `i` of the image. -/
def recordByte (i : Nat) (b : Block) : Byte := (recordImage b).getD i 0#8

/-- The four bytes a used block begins with (R63, R107). -/
def guardImage (c : Config) : List Byte := le32 c.guardPrefix

/-! ## Registers -/

/-- A status bit set by OR (R23). -/
def orStatus (n : Nat) (b : Block) : Block :=
  { b with record := { b.record with status := b.record.status ||| statusBit n } }

/-- `phase <- p` (R10, R24). -/
def setPhase (p : BitVec 4) (b : Block) : Block := { b with phase := p }

/-- The returned value (R112). -/
def setRet (r : Result) (b : Block) : Block := { b with ret := r }

/-- A pulse generator, by channel (R37). -/
def getPulse (ch : Channel) (b : Block) : Pulse :=
  match ch with
  | .steering => b.steer
  | .throttle => b.throttle

/-- A pulse generator written, by channel. -/
def setPulse (ch : Channel) (p : Pulse) (b : Block) : Block :=
  match ch with
  | .steering => { b with steer := p }
  | .throttle => { b with throttle := p }

/-- The cell an index selects (R30). -/
def getCell (i : Fin 2) (e : Encoder) : EncCell := if i = 0 then e.cell0 else e.cell1

/-- A cell written. -/
def setCell (i : Fin 2) (x : EncCell) (e : Encoder) : Encoder :=
  if i = 0 then { e with cell0 := x } else { e with cell1 := x }

/-- The other index, `1 - active` (R212). -/
def otherCell (i : Fin 2) : Fin 2 := if i = 0 then 1 else 0

/-! ## Events: raising, entry, return

The block's analogue of taking an exception (R315, R330 to R334): an event is raised and waits; entry to its handler saves
and changes nothing; the handler's one step consumes the event; there is no return operation. -/

/-- An event is raised; while the sources are disabled nothing becomes pending (R331, R350; log 10). -/
def raiseEvent (e : Event) (b : Block) : Block :=
  if b.irq.enabled then { b with irq := { b.irq with pending := b.irq.pending ++ [e] } } else b

/-- The handler step consumes its event (R331). -/
def consumeEvent (e : Event) (b : Block) : Block :=
  { b with irq := { b.irq with pending := b.irq.pending.erase e } }

/-- Every pending event of one kind is cancelled (R121). -/
def cancelEvent (e : Event) (b : Block) : Block :=
  { b with irq := { b.irq with pending := b.irq.pending.filter (· != e) } }

/-- The operation a pending event's handler performs, with the operands read from the event or the ports (R330). -/
def handlerOf (e : Event) (b : Block) : Instr :=
  match e with
  | .rx v => .frmRx v
  | .tw st data => .hdgEvt st data
  | .qe => .encEdge b.env.sample
  | .cm ch => .plsMatch ch
  | .ovf => .schOvf

/-! ## The two-wire bus -/

/-- `TwOp(op)`: one operation issued; the bus answers later (R186). -/
def issueTw (op : TwOp) (b : Block) : Block :=
  { b with env := { b.env with twIssued := op :: b.env.twIssued } }

/-! ## Free bytes -/

/-- `n` bytes the spec leaves undefined, fresh ones each time (U2). -/
def freshBytes (b : Block) (n : Nat) : List Byte := (List.range n).map fun k => Config.freeByte (b.fresh + k)

/-! ## Outcomes -/

/-- The state with its block changed. -/
def State.mapBlk (f : Block → Block) (s : State) : State := { s with blk := f s.blk }

/-- The next state after an operation that always completes. -/
def done (f : Block → Block) (s : State) : Host.Outcome State Fault Refusal := .next (s.mapBlk f)

/-- The outcome of an operation that can fault. -/
def doneOrFault (r : Except Fault Block) (s : State) : Host.Outcome State Fault Refusal :=
  match r with
  | .ok b => .next { s with blk := b }
  | .error e => .fault e

end Sys2Proof.Machine
end

