-- ==== Sys2Proof/Machine/Prog.lean ====
section
/-!
DEFINITION. Main-loop operations as sequences of micro-steps (`00_scope.md` rule R11, `20_memory.md` rules R67 and R71). A
micro-step changes the block and yields a number, on which alone the rest of the operation depends; so the place an operation
has reached is the list of numbers its micro-steps have yielded, which is plain data.
-/

namespace Sys2Proof.Machine

/-- Why an operation has no next micro-step. -/
inductive Stop where
  | fault (f : Fault)
  | refusal (r : Refusal)

/-- An operation that ends with a value: nothing left to do, or one micro-step and what follows each number it can yield, or a
condition that must hold when the next micro-step is made. -/
inductive Prog (α : Type) where
  | ret (a : α)
  | micro (f : Block → Block × Nat) (k : Nat → Prog α)
  | need (why : Block → Option Stop) (k : Prog α)

/-- The whole operation with no step of another agent between its micro-steps. -/
def Prog.run : Prog α → Block → α × Block
  | .ret a, b => (a, b)
  | .micro f k, b => (k (f b).2).run (f b).1
  | .need _ k, b => k.run b

/-- The same, or the first condition that fails on the way. -/
def Prog.attempt : Prog α → Block → Except Stop (α × Block)
  | .ret a, b => .ok (a, b)
  | .micro f k, b => (k (f b).2).attempt (f b).1
  | .need why k, b =>
    match why b with
    | some e => .error e
    | none => k.attempt b

/-- One operation and then another that may use its value. -/
def Prog.bind : Prog α → (α → Prog β) → Prog β
  | .ret a, q => q a
  | .micro f k, q => .micro f fun n => (k n).bind q
  | .need why k, q => .need why (k.bind q)

/-- What is left of an operation after micro-steps that yielded the given numbers. -/
def Prog.follow : Prog α → List Nat → Prog α
  | p, [] => p
  | .ret a, _ :: _ => .ret a
  | .micro _ k, n :: path => (k n).follow path
  | .need _ k, n :: path => k.follow (n :: path)

/-- Whether nothing is left to do. -/
def Prog.isDone : Prog α → Bool
  | .ret _ => true
  | .micro _ _ => false
  | .need _ k => k.isDone

/-- The first micro-step left, if any, and the number it yields. -/
def Prog.first : Prog α → Block → Option (Block × Nat)
  | .ret _, _ => none
  | .micro f _, b => some (f b)
  | .need _ k, b => k.first b

/-- Why the first micro-step left cannot be made, if so. -/
def Prog.blocked : Prog α → Block → Option Stop
  | .ret _, _ => none
  | .micro _ _, _ => none
  | .need why k, b =>
    match why b with
    | some e => some e
    | none => k.blocked b

/-- One micro-step that only changes the block. -/
def Prog.act (f : Block → Block) : Prog Unit := .micro (fun b => (f b, 0)) fun _ => .ret ()

/-- One micro-step that only reads a number from the block. -/
def Prog.ask (g : Block → Nat) : Prog Nat := .micro (fun b => (b, g b)) .ret

/-- A condition on the block at the next micro-step. -/
def Prog.require (why : Block → Option Stop) : Prog Unit := .need why (.ret ())

/-- One operation after another, the first one's value unused. -/
def Prog.andThen (p : Prog α) (q : Prog β) : Prog β := p.bind fun _ => q

/-- The same operation for each number of a list, in order. -/
def Prog.forEach (body : Nat → Prog Unit) : List Nat → Prog Unit
  | [] => .ret ()
  | i :: rest => (body i).andThen (Prog.forEach body rest)

/-- `n` bytes read one by one, from the `k`-th on. -/
def Prog.askBytes (g : Nat → Block → Byte) : Nat → Nat → Prog (List Byte)
  | 0, _ => .ret []
  | n + 1, k =>
    (Prog.ask fun b => (g k b).toNat).bind fun v => (Prog.askBytes g n (k + 1)).bind fun vs => .ret (BitVec.ofNat 8 v :: vs)

end Sys2Proof.Machine
end

