-- ==== Sys2Proof/Machine/Registers.lean ====
section
/-!
DEFINITION. How the main loop reaches a register that is wider than a byte (`20_memory.md` rule R67): a read or a write is a
sequence of accesses of one byte, between which other agents may step. The bytes are taken from the least significant one up
(log 8).
-/

namespace Sys2Proof.Machine

/-! ## Registers -/

/-- A register of `w` bits: how it is read whole and how it is written whole. -/
structure Reg (w : Nat) where
  get : Block → BitVec w
  set : BitVec w → Block → Block

/-- The bits of byte `k`. -/
def byteMask (w k : Nat) : BitVec w := 255#w <<< (8 * k)

/-- A word with its byte `k` taken from another one. -/
def mergeByte (k : Nat) (v old : BitVec w) : BitVec w := (old &&& ~~~byteMask w k) ||| (v &&& byteMask w k)

/-- How many bytes a register takes. -/
def byteCount (w : Nat) : Nat := (w + 7) / 8

/-- `n` bytes of a register read from byte `k` on, as one number. -/
def readFrom (r : Reg w) : Nat → Nat → Prog Nat
  | 0, _ => .ret 0
  | n + 1, k =>
    (Prog.ask fun b => (byteOf (r.get b) k).toNat).bind fun lo =>
    (readFrom r n (k + 1)).bind fun hi => .ret (lo + 256 * hi)

/-- A register read byte by byte. -/
def readReg (r : Reg w) : Prog (BitVec w) := (readFrom r (byteCount w) 0).bind fun n => .ret (BitVec.ofNat w n)

/-- `n` bytes of a register written from byte `k` on. -/
def writeFrom (r : Reg w) (v : BitVec w) : Nat → Nat → Prog Unit
  | 0, _ => .ret ()
  | n + 1, k => (Prog.act fun b => r.set (mergeByte k v (r.get b)) b).andThen (writeFrom r v n (k + 1))

/-- A register written byte by byte. -/
def writeReg (r : Reg w) (v : BitVec w) : Prog Unit := writeFrom r v (byteCount w) 0

/-- A register read, and the value computed from it written. -/
def modifyReg (r : Reg w) (f : BitVec w → BitVec w) : Prog Unit := (readReg r).bind fun v => writeReg r (f v)

/-- One register copied to another. -/
def copyReg (src dst : Reg w) : Prog Unit := (readReg src).bind fun v => writeReg dst v

/-! ## The registers the main loop reaches -/

/-- A field of the record (R21). -/
def recordReg (get : SharedRecord → BitVec w) (set : BitVec w → SharedRecord → SharedRecord) : Reg w :=
  { get := fun b => get b.record, set := fun v b => { b with record := set v b.record } }

def statusReg : Reg 32 := recordReg (·.status) fun v r => { r with status := v }
def gpsLatReg : Reg 32 := recordReg (·.gpsLat) fun v r => { r with gpsLat := v }
def gpsLonReg : Reg 32 := recordReg (·.gpsLon) fun v r => { r with gpsLon := v }
def gpsHdopReg : Reg 32 := recordReg (·.gpsHdop) fun v r => { r with gpsHdop := v }
def gpsAltReg : Reg 32 := recordReg (·.gpsAlt) fun v r => { r with gpsAlt := v }
def gpsXReg : Reg 32 := recordReg (·.gpsX) fun v r => { r with gpsX := v }
def gpsYReg : Reg 32 := recordReg (·.gpsY) fun v r => { r with gpsY := v }
def gpsSpeedReg : Reg 32 := recordReg (·.gpsSpeed) fun v r => { r with gpsSpeed := v }
def gpsCourseReg : Reg 32 := recordReg (·.gpsCourse) fun v r => { r with gpsCourse := v }
def gpsDateReg : Reg 32 := recordReg (·.gpsDate) fun v r => { r with gpsDate := v }
def gpsMagvarReg : Reg 32 := recordReg (·.gpsMagvar) fun v r => { r with gpsMagvar := v }
def hdgRawReg : Reg 16 := recordReg (·.hdgRaw) fun v r => { r with hdgRaw := v }
def hdgDegReg : Reg 32 := recordReg (·.hdgDeg) fun v r => { r with hdgDeg := v }
def hdgRadReg : Reg 32 := recordReg (·.hdgRad) fun v r => { r with hdgRad := v }
def encTicksReg : Reg 16 := recordReg (·.encTicks) fun v r => { r with encTicks := v }
def encValidReg : Reg 8 := recordReg (·.encValid) fun v r => { r with encValid := v }
def estXReg : Reg 32 := recordReg (·.estX) fun v r => { r with estX := v }
def estYReg : Reg 32 := recordReg (·.estY) fun v r => { r with estY := v }
def estHeadingReg : Reg 32 := recordReg (·.estHeading) fun v r => { r with estHeading := v }
def wpIndexReg : Reg 8 := recordReg (·.wpIndex) fun v r => { r with wpIndex := v }
def wpAngleReg : Reg 32 := recordReg (·.wpAngle) fun v r => { r with wpAngle := v }
def steerUsReg : Reg 16 := recordReg (·.steerUs) fun v r => { r with steerUs := v }
def throttleUsReg : Reg 16 := recordReg (·.throttleUs) fun v r => { r with throttleUs := v }

/-- `h_value` (R29). -/
def hValueReg : Reg 16 :=
  { get := fun b => b.hdg.value, set := fun v b => { b with hdg := { b.hdg with value := v } } }

/-- `cell[j].count` (R30). -/
def cellCountReg (j : Fin 2) : Reg 16 :=
  { get := fun b => (getCell j b.enc).count
    set := fun v b => { b with enc := setCell j { getCell j b.enc with count := v } b.enc } }

/-- `s_count` (R32), of `SCHED_BITS` bits. -/
def sCountReg (bits : Nat) : Reg bits :=
  { get := fun b => BitVec.ofNat bits b.sch.count
    set := fun v b => { b with sch := { b.sch with count := v.toNat } } }

/-- `d_hold` (R36). -/
def holdReg : Reg 8 :=
  { get := fun b => b.act.hold, set := fun v b => { b with act := { b.act with hold := v } } }

/-- `next_block` (R38). -/
def nextBlockReg : Reg 32 :=
  { get := fun b => b.sto.nextBlock, set := fun v b => { b with sto := { b.sto with nextBlock := v } } }

/-- `capacity_blocks` (R38). -/
def capacityReg : Reg 32 :=
  { get := fun b => b.sto.capacityBlocks, set := fun v b => { b with sto := { b.sto with capacityBlocks := v } } }

/-! ## Shared programs -/

/-- `status <- status OR (1 << n)` (R23). -/
def orStatusProg (n : Nat) : Prog Unit := modifyReg statusReg (· ||| statusBit n)

/-- `phase <- p`, the last write of an operation of the cycle (R10, R24). -/
def endPhase (p : BitVec 4) : Prog Unit := Prog.act (setPhase p)

/-- The value an operation returns (R112). -/
def returns (r : Result) : Prog Unit := Prog.act (setRet r)

/-! ## Outcomes -/

/-- The outcome of an operation that cannot go on. -/
def Stop.outcome : Stop → Host.Outcome State Fault Refusal
  | .fault f => .fault f
  | .refusal r => .refused r

/-- A whole operation without conditions, which always has a next state. -/
def complete (p : Prog α) (s : State) : Host.Outcome State Fault Refusal := done (fun b => (p.run b).2) s

/-- A whole operation, or the reason why it has no step. -/
def perform (p : Prog α) (s : State) : Host.Outcome State Fault Refusal :=
  match p.attempt s.blk with
  | .ok r => .next { s with blk := r.2 }
  | .error e => e.outcome

end Sys2Proof.Machine
end

