-- ==== Sys2Proof/Machine/Guidance.lean ====
section
/-!
DEFINITION. The waypoint guidance engine (`46_guidance.md` rules R230 to R236).
-/

namespace Sys2Proof.Machine

/-- The value the gate test compares with zero (R233): the cross product of the boundary normal and the vector from the
position to the boundary point, or the dot product of the switch `GATE_TEST` (D28). -/
def gateValue (c : Config) (w : Waypoint) (px py : F32) : F32 :=
  match c.gateTest with
  | .cross => f32Sub (f32Mul w.normU (f32Sub w.boundY py)) (f32Mul w.normV (f32Sub w.boundX px))
  | .dot => f32Add (f32Mul w.normU (f32Sub px w.boundX)) (f32Mul w.normV (f32Sub py w.boundY))

/-- `boundary_crossed` (R233): false for zero and for a NaN. -/
def crossed (c : Config) (w : Waypoint) (px py : F32) : Bool := f32Lt (gateValue c w px py) 0#32

/-- `GDE.CROSSED`, R233. -/
def execGdeCrossed (wp : Byte) (px py : F32) (s : State) : Host.Outcome State Fault Refusal :=
  match waypointAt s.blk.cfg wp.toNat with
  | some w => done (setRet (.flag (crossed s.blk.cfg w px py))) s
  | none => .refused .waypointOperand

/-- An index above `TABLE_LEN` selects no waypoint (R231). -/
def waypointStop (c : Config) (i : Byte) : Option Stop :=
  match waypointAt c i.toNat with
  | some _ => none
  | none => some (.fault .waypointIndex)

/-- The waypoint `wp_index` selects, read and used (R231). -/
def withWaypoint (c : Config) (use : Waypoint → Prog Unit) : Prog Unit :=
  (readReg wpIndexReg).bind fun i =>
  (Prog.require fun _ => waypointStop c i).andThen <|
  match waypointAt c i.toNat with
  | some w => use w
  | none => .ret ()

/-- `wp_index <- min(wp_index + 1, TABLE_LEN)` (R234). -/
def nextWaypoint (c : Config) : Prog Unit :=
  modifyReg wpIndexReg fun i => BitVec.ofNat 8 (min (i.toNat + 1) c.tableLen)

/-- `GDE.ADVANCE` (R234) with at most `fuel` tests: on to the next waypoint while the position has crossed this one. -/
def advanceProg (c : Config) : Nat → Prog Unit
  | 0 => .ret ()
  | fuel + 1 =>
    withWaypoint c fun w =>
    (readReg estXReg).bind fun px =>
    (readReg estYReg).bind fun py =>
    if crossed c w px py then (nextWaypoint c).andThen (advanceProg c fuel) else .ret ()

/-- `GDE.ADVANCE` (R234): `TABLE_LEN` turns, and the test that ends the last one, suffice from any index of the table. -/
def gdeAdvanceProg (c : Config) : Prog Unit := advanceProg c (c.tableLen + 1)

/-- `GDE.ADVANCE`, R234. -/
def execGdeAdvance (s : State) : Host.Outcome State Fault Refusal := perform (gdeAdvanceProg s.blk.cfg) s

/-- `target_angle` for a waypoint (R235). -/
def targetAngle (w : Waypoint) (px py heading : F32) : F32 :=
  let wx := f32Sub w.posX px
  let wy := f32Sub w.posY py
  let len := f32Sqrt (f32Add (f32Mul wx wx) (f32Mul wy wy))
  if f32Eq len 0#32 then 0#32
  else
    let z := f32Sub (f32Mul (f32Cos heading) wy) (f32Mul (f32Sin heading) wx)
    let r := f32Div z len
    let r := if f32Lt 0x3F800000#32 r then 0x3F800000#32 else r
    let r := if f32Lt r 0xBF800000#32 then 0xBF800000#32 else r
    f32Asin r

/-- `GDE.ANGLE`, R235: the angle to the active waypoint. -/
def execGdeAngle (px py heading : F32) (s : State) : Host.Outcome State Fault Refusal :=
  match waypointAt s.blk.cfg s.blk.record.wpIndex.toNat with
  | some w => done (setRet (.float (targetAngle w px py heading))) s
  | none => .fault .waypointIndex

/-- The angle from the pose to the active waypoint (R236, second line). -/
def aimProg (c : Config) : Prog Unit :=
  (readReg estXReg).bind fun px =>
  (readReg estYReg).bind fun py =>
  (readReg estHeadingReg).bind fun h =>
  withWaypoint c fun w => writeReg wpAngleReg (targetAngle w px py h)

/-- `GDE.UPDATE` (R236). -/
def gdeUpdateProg (c : Config) : Prog Unit := (gdeAdvanceProg c).andThen <| (aimProg c).andThen <| endPhase 6#4

/-- `GDE.UPDATE`, R236. -/
def execGdeUpdate (s : State) : Host.Outcome State Fault Refusal := perform (gdeUpdateProg s.blk.cfg) s

end Sys2Proof.Machine
end

