-- ==== Sys2Proof/Machine/ActuationController.lean ====
section
/-!
DEFINITION. The actuation controller and the pulse generators (`47_actuation.md` rules R245 to R264).
-/

namespace Sys2Proof.Machine

/-! ## Drive commands -/

/-- `d_state <- d` (R36). -/
def setDrive (d : DriveState) (b : Block) : Block := { b with act := { b.act with drive := d } }

/-- The code of a drive state (R36). -/
def dCode : DriveState → Nat
  | .forward => 0
  | .neutral => 1
  | .reverse => 2
  | .preReverse => 3

/-- `d_state` read, and what is done in each state (R250, R252). -/
def caseDrive (arm : DriveState → Prog Unit) : Prog Unit :=
  (Prog.ask fun b => dCode b.act.drive).bind fun n =>
  if n = dCode .forward then arm .forward
  else if n = dCode .neutral then arm .neutral
  else if n = dCode .reverse then arm .reverse
  else arm .preReverse

/-- `drive_forward` to the width of its class (R248). -/
def driveForward (us : U16) : Prog Unit :=
  (writeReg throttleUsReg us).andThen <|
  (Prog.act (setDrive .forward)).andThen <|
  writeReg holdReg 0#8

/-- `ACT.FWD`, R248; a class without a width is none (R248 (b)). -/
def execActFwd (c : Byte) (s : State) : Host.Outcome State Fault Refusal :=
  match fwdWidth s.blk.cfg c.toNat with
  | some us => complete (driveForward us) s
  | none => .refused .speedClass

/-- The width one step nearer to neutral, if it is more than one step away (R250). -/
def rampWidth (c : Config) (step : Nat) (us : U16) : Option U16 :=
  let n := c.neutralUs.toNat
  let t := us.toNat
  if n ≤ t then
    if t - n ≤ step then none else some (BitVec.ofNat 16 (t - step))
  else
    if n - t ≤ step then none else some (BitVec.ofNat 16 (t + step))

/-- One step of the ramp to neutral (R250): within one step, equality included, it snaps and the state becomes `Neutral`. -/
def rampToNeutral (c : Config) (step : Nat) : Prog Unit :=
  (readReg throttleUsReg).bind fun t =>
  match rampWidth c step t with
  | some us => writeReg throttleUsReg us
  | none => (writeReg throttleUsReg c.neutralUs).andThen (Prog.act (setDrive .neutral))

/-- `stop()` (R250). -/
def driveStop (c : Config) : Prog Unit :=
  caseDrive fun d =>
  match d with
  | .neutral => writeReg throttleUsReg c.neutralUs
  | .preReverse =>
    (writeReg throttleUsReg c.neutralUs).andThen <|
    (Prog.act (setDrive .neutral)).andThen <|
    writeReg holdReg 0#8
  | .forward => rampToNeutral c c.stepFromFwd
  | .reverse => rampToNeutral c c.stepFromRev

/-- `ACT.STOP`, R250. -/
def execActStop (s : State) : Host.Outcome State Fault Refusal := complete (driveStop s.blk.cfg) s

/-- The width in `Reverse` on the way to a target (R252): slower snaps, faster ramps. -/
def reverseWidth (c : Config) (target now : U16) : U16 :=
  if now.toNat ≤ target.toNat then target
  else if now.toNat - target.toNat ≤ c.revRampStep then target
  else BitVec.ofNat 16 (now.toNat - c.revRampStep)

/-- `drive_reverse` to the width of its class (R252). -/
def driveReverse (c : Config) (target : U16) : Prog Unit :=
  caseDrive fun d =>
  match d with
  | .reverse => modifyReg throttleUsReg (reverseWidth c target)
  | .forward => rampToNeutral c c.stepFromFwd
  | .neutral =>
    (Prog.act (setDrive .preReverse)).andThen <|
    (writeReg throttleUsReg c.preReverseUs).andThen <|
    writeReg holdReg 0#8
  | .preReverse =>
    (modifyReg holdReg (· + 1#8)).andThen <|
    (readReg holdReg).bind fun h =>
    if c.preReverseHold ≤ h.toNat then Prog.act (setDrive .reverse) else .ret ()

/-- `ACT.REV`, R252. -/
def execActRev (c : Byte) (s : State) : Host.Outcome State Fault Refusal :=
  match revWidth s.blk.cfg c.toNat with
  | some us => complete (driveReverse s.blk.cfg us) s
  | none => .refused .speedClass

/-- `steer_to` (R255). -/
def steerTo (c : Config) (angle : F32) : Prog Unit := writeReg steerUsReg (steerWidth c (clampAngle c angle))

/-- `ACT.STEER`, R255. -/
def execActSteer (angle : F32) (s : State) : Host.Outcome State Fault Refusal :=
  complete (steerTo s.blk.cfg angle) s

/-! ## Pulse generators -/

/-- The width a channel puts out (R258). -/
def channelWidth (ch : Channel) (r : SharedRecord) : U16 :=
  match ch with
  | .steering => r.steerUs
  | .throttle => r.throttleUs

/-- `PLS.START` (R258): the compare value is computed in u16 (R115). -/
def pulseStart (ch : Channel) (b : Block) : Block :=
  setPulse ch
    { out := true, ocr := BitVec.ofNat 16 ((channelWidth ch b.record).toNat * b.cfg.ticksPerUs), cnt := 0#16, run := true } b

/-- `PLS.START`, R258. -/
def execPlsStart (ch : Channel) (s : State) : Host.Outcome State Fault Refusal := done (pulseStart ch) s

/-- `PLS.TICK` (R259): equality raises the compare match. -/
def pulseTick (ch : Channel) (b : Block) : Block :=
  let p := getPulse ch b
  if p.run then
    let b1 := setPulse ch { p with cnt := p.cnt + 1#16 } b
    if p.cnt + 1#16 = p.ocr then raiseEvent (.cm ch) b1 else b1
  else b

/-- `PLS.TICK`, R259. -/
def execPlsTick (ch : Channel) (s : State) : Host.Outcome State Fault Refusal := done (pulseTick ch) s

/-- `PLS.MATCH` (R260). -/
def pulseMatch (ch : Channel) (b : Block) : Block :=
  setPulse ch { getPulse ch b with out := false, run := false } (consumeEvent (.cm ch) b)

/-- `PLS.MATCH`, R260. -/
def execPlsMatch (ch : Channel) (s : State) : Host.Outcome State Fault Refusal := done (pulseMatch ch) s

/-! ## The per-cycle step and the start-up run -/

/-- The operation a drive command dispatches to (R246, R262). -/
def driveOf (c : Config) : DriveCmd → Option (Prog Unit)
  | .stop => some (driveStop c)
  | .fwd k => (fwdWidth c k).map driveForward
  | .rev k => (revWidth c k).map (driveReverse c)

/-- The command of a waypoint performed; a speed class without a width is none (R248 (b), R262). -/
def driveWaypoint (c : Config) (w : Waypoint) : Prog Unit :=
  match driveOf c w.throttle with
  | some p => p
  | none => Prog.require fun _ => some (.refusal .speedClass)

/-- `ACT.UPDATE` (R262). -/
def actUpdateProg (c : Config) : Prog Unit :=
  (readReg wpAngleReg).bind fun angle =>
  (steerTo c angle).andThen <|
  (withWaypoint c (driveWaypoint c)).andThen <|
  (Prog.act (pulseStart .steering)).andThen <|
  (Prog.act (pulseStart .throttle)).andThen <|
  endPhase 7#4

/-- `ACT.UPDATE`, R262. -/
def execActUpdate (s : State) : Host.Outcome State Fault Refusal := perform (actUpdateProg s.blk.cfg) s

/-- The first line of `ACT.STARTUP` (R264). -/
def startupNeutral (c : Config) : Prog Unit :=
  (writeReg throttleUsReg c.neutralUs).andThen <|
  (writeReg steerUsReg c.steerCenterUs).andThen <|
  (Prog.act (setDrive .neutral)).andThen <|
  writeReg holdReg 0#8

/-- `s_overrun <- 0` (R264). -/
def clearOverrun (b : Block) : Block := { b with sch := { b.sch with overrun := false } }

/-- One pulse of the start-up run, up to its wait (R264). -/
def startupPulse (c : Config) : Prog Unit :=
  (writeReg (sCountReg c.schedBits) 0).andThen <|
  (Prog.act clearOverrun).andThen <|
  (Prog.act (pulseStart .steering)).andThen <|
  Prog.act (pulseStart .throttle)

/-- `ACT.STARTUP` (R264), up to its first wait. -/
def actStartupProg (c : Config) : Prog Unit :=
  (startupNeutral c).andThen <|
  match c.startupPulses with
  | 0 => .ret ()
  | _ + 1 => startupPulse c

/-- Whether the wait after a start-up pulse is over (R264). -/
def startupReady (b : Block) : Bool := decide (b.cfg.cycleTicks ≤ b.sch.count) || b.sch.overrun

/-- The wait after the first pulse, with the pulses still to be started; none when there is no pulse (R264). -/
def firstWait (c : Config) : Option Task :=
  match c.startupPulses with
  | 0 => none
  | n + 1 => some (.startup n)

/-- `ACT.STARTUP`, R264: up to the wait after the first pulse; the waits that remain are the main loop's task (log 25). -/
def execActStartup (s : State) : Host.Outcome State Fault Refusal :=
  .next { s.mapBlk (fun b => ((actStartupProg b.cfg).run b).2) with task := (firstWait s.blk.cfg).or s.task }

end Sys2Proof.Machine
end

