-- ==== Sys2Proof/Machine/EncoderCounter.lean ====
section
/-!
DEFINITION. The encoder counter (`44_encoder.md` rules R205 to R213).
-/

namespace Sys2Proof.Machine

/-- Input A and input B of a sample `qa ++ qb` (R31). -/
def sampleA (q : BitVec 2) : Bool := q.getLsbD 1
def sampleB (q : BitVec 2) : Bool := q.getLsbD 0

/-- One tick up or down, the sense given by `ENC_DIR` (R207). -/
def tickOf (c : Config) (up : Bool) : U16 := if up == c.encDirALeadsB then 1#16 else -1#16

/-- `dirA` (R207): +1 when the inputs differ in the new sample. -/
def dirA (c : Config) (q : BitVec 2) : U16 := tickOf c (sampleA q != sampleB q)

/-- `dirB` (R207): +1 when the inputs agree in the new sample. -/
def dirB (c : Config) (q : BitVec 2) : U16 := tickOf c (sampleA q == sampleB q)

/-- The active cell's error set and the sample kept (R208, R209). -/
def edgeError (q : BitVec 2) (b : Block) : Block :=
  { b with enc :=
      { setCell b.enc.active { getCell b.enc.active b.enc with error := true } b.enc with qPrev := q } }

/-- The active cell's count moved, with wrap-around, and the sample kept (R210, R211). -/
def edgeCount (d : U16) (q : BitVec 2) (b : Block) : Block :=
  { b with enc :=
      { setCell b.enc.active
          { getCell b.enc.active b.enc with count := (getCell b.enc.active b.enc).count + d } b.enc with qPrev := q } }

/-- The decode of an edge by its transition code (R101, R206). -/
def edgeDecode (q : BitVec 2) (b : Block) : Block :=
  let code := q ^^^ b.enc.qPrev
  if code = 0b10#2 then edgeCount (dirA b.cfg q) q b
  else if code = 0b01#2 then edgeCount (dirB b.cfg q) q b
  else edgeError q b

/-- `ENC.EDGE`, R206. -/
def execEncEdge (ab : BitVec 2) (s : State) : Host.Outcome State Fault Refusal :=
  done (fun b => edgeDecode ab (consumeEvent .qe b)) s

/-- Arm `ENC.EDGE.NOCHG`, R208: the new sample equals the previous one. -/
def execEncEdgeNochg (s : State) : Host.Outcome State Fault Refusal :=
  done (fun b => edgeError b.enc.qPrev (consumeEvent .qe b)) s

/-- Arm `ENC.EDGE.BOTH`, R209: both inputs changed. -/
def execEncEdgeBoth (s : State) : Host.Outcome State Fault Refusal :=
  done (fun b => edgeError (b.enc.qPrev ^^^ 0b11#2) (consumeEvent .qe b)) s

/-- Arm `ENC.EDGE.A`, R210: input A changed. -/
def execEncEdgeA (s : State) : Host.Outcome State Fault Refusal :=
  done (fun b =>
    edgeCount (dirA b.cfg (b.enc.qPrev ^^^ 0b10#2)) (b.enc.qPrev ^^^ 0b10#2) (consumeEvent .qe b)) s

/-- Arm `ENC.EDGE.B`, R211: input B changed. -/
def execEncEdgeB (s : State) : Host.Outcome State Fault Refusal :=
  done (fun b =>
    edgeCount (dirB b.cfg (b.enc.qPrev ^^^ 0b01#2)) (b.enc.qPrev ^^^ 0b01#2) (consumeEvent .qe b)) s

/-! ## The drain -/

/-- The index a number read from `active` names. -/
def cellIndex (n : Nat) : Fin 2 := if n = 0 then 0 else 1

/-- `cell[j].error <- 0` (R212). -/
def clearError (j : Fin 2) (b : Block) : Block :=
  { b with enc := setCell j { getCell j b.enc with error := false } b.enc }

/-- `active <- j`, the one synchronisation write (R212, R74). -/
def setActive (j : Fin 2) (b : Block) : Block := { b with enc := { b.enc with active := j } }

/-- `cell[k].error` as a number. -/
def errorBit (k : Fin 2) (b : Block) : Nat := (getCell k b.enc).error.toNat

/-- The drain of the cell `k`, with `j` the other one, line by line (R212). -/
def drainCells (j k : Fin 2) : Prog Unit :=
  (writeReg (cellCountReg j) 0#16).andThen <|
  (Prog.act (clearError j)).andThen <|
  (Prog.act (setActive j)).andThen <|
  (copyReg (cellCountReg k) encTicksReg).andThen <|
  (Prog.ask (errorBit k)).bind fun e =>
  (writeReg encValidReg (if e = 0 then 1#8 else 0#8)).andThen <|
  (Prog.ask (errorBit k)).bind fun e =>
  (if e = 1 then orStatusProg stEncerr else .ret ()).andThen <|
  endPhase 4#4

/-- `ENC.DRAIN` (R212): the active index read, then clear, swap, read, in that order (R361). -/
def encDrainProg : Prog Unit :=
  (Prog.ask fun b => b.enc.active.val).bind fun a => drainCells (otherCell (cellIndex a)) (cellIndex a)

/-- `ENC.DRAIN`, R212. -/
def execEncDrain (s : State) : Host.Outcome State Fault Refusal := complete encDrainProg s

end Sys2Proof.Machine
end

