-- ==== Sys2Proof/Machine/Estimator.lean ====
section
/-!
DEFINITION. The state estimator (`45_estimator.md` rules R220 to R222).
-/

namespace Sys2Proof.Machine

/-- The distance of the cycle's ticks (R221). -/
def tickDistance (c : Config) (ticks : U16) : F32 := f32Mul (f32OfInt ticks.toInt) c.metersPerTick

/-- One coordinate moved along the heading (R221): `along` is `cos` or `sin`. -/
def integrate (along : F32 → F32) (coord : Reg 32) (d : F32) : Prog Unit :=
  (readReg coord).bind fun x =>
  (readReg estHeadingReg).bind fun h =>
  writeReg coord (f32Add x (f32Mul (along h) d))

/-- The position from the ticks (R221, second arm). -/
def deadReckon (c : Config) : Prog Unit :=
  (readReg encTicksReg).bind fun n =>
  (integrate f32Cos estXReg (tickDistance c n)).andThen <|
  integrate f32Sin estYReg (tickDistance c n)

/-- `EST.UPDATE` (R221), line by line: heading from the sensor; position from the fix, else from the ticks, else held. -/
def estUpdateProg (c : Config) : Prog Unit :=
  (copyReg hdgRadReg estHeadingReg).andThen <|
  (readReg statusReg).bind fun st =>
  (if st.getLsbD stGga then (copyReg gpsXReg estXReg).andThen (copyReg gpsYReg estYReg)
   else (readReg encValidReg).bind fun v => if v = 1#8 then deadReckon c else .ret ()).andThen <|
  endPhase 5#4

/-- `EST.UPDATE`, R221. -/
def execEstUpdate (s : State) : Host.Outcome State Fault Refusal := complete (estUpdateProg s.blk.cfg) s

end Sys2Proof.Machine
end

