-- ==== Sys2Proof/Machine/Parser.lean ====
section
/-!
DEFINITION. The checksum validator and the sentence parser (`42_parser.md` rules R155 to R170; formats of `30_encoding.md`
rules R91 to R98).
-/

namespace Sys2Proof.Machine

/-! ## The validator -/

/-- The comparison of R158 with the two bytes after the `*`; a digit outside the buffer or not hexadecimal fails. -/
def chkDigits (acc : Byte) : List Byte → Bool
  | h :: l :: _ =>
    match hexVal h, hexVal l with
    | some x, some y => acc == x * 16#8 + y
    | _, _ => false
  | _ => false

/-- The scan of R158 from the byte after the start marker: the first `*` ends it, a null or the end of the buffer fails. -/
def chkScan (acc : Byte) : List Byte → Bool
  | [] => false
  | b :: rest =>
    if b = chkDelim then chkDigits acc rest
    else if b = 0#8 then false
    else chkScan (acc ^^^ b) rest

/-- `validate_checksum` (R158): index 0 is not examined. -/
def checksumOk (line : List Byte) : Bool := chkScan 0#8 (line.drop 1)

/-- `PRS.CHK`, R158. -/
def execPrsChk (line : List Byte) (s : State) : Host.Outcome State Fault Refusal :=
  done (setRet (.flag (checksumOk line))) s

/-! ## Fields -/

/-- The line's own bytes: up to the first `\n` or 0x00 or the end of the buffer (R95). -/
def lineContent (line : List Byte) : List Byte := line.takeWhile fun b => b != terminator && b != 0#8

/-- What follows the `k`-th `,`; nothing when there are fewer (R95). -/
def afterCommas : Nat → List Byte → List Byte
  | 0, bs => bs
  | _ + 1, [] => []
  | k + 1, b :: rest => if b = fieldDelim then afterCommas k rest else afterCommas (k + 1) rest

/-- `field(line, k)` (R95): up to the next `,` or `*` or carriage return, or the end of the line (log 16). -/
def field (line : List Byte) (k : Nat) : List Byte :=
  (afterCommas k (lineContent line)).takeWhile fun b => b != fieldDelim && b != chkDelim && b != carriageReturn

/-- Whether a field is not empty and begins with a byte. -/
def fieldIs (f : List Byte) (b : Byte) : Bool := f.head? == some b

/-- A decimal digit. -/
def isDigit (b : Byte) : Bool := decide (0x30#8 ≤ b) && decide (b ≤ 0x39#8)

/-- The number a string of digits names. -/
def digitsValue (ds : List Byte) : Nat := ds.foldl (fun n d => n * 10 + (d - 0x30#8).toNat) 0

/-- The unsigned part of `dec` (R160): the digits before the point and those after it. -/
def decDigits (f : List Byte) : List Byte × List Byte :=
  let whole := f.takeWhile isDigit
  match f.dropWhile isDigit with
  | 0x2E#8 :: rest => (whole, rest.takeWhile isDigit)
  | _ => (whole, [])

/-- The value of a signed prefix (R160); the sign of a zero after `-` is free (log 14). -/
def decSigned (neg : Bool) (f : List Byte) : F32 :=
  let p := decDigits f
  if p.1 ++ p.2 = [] then f32Zero false
  else
    let x := f32OfDecimal neg (digitsValue (p.1 ++ p.2)) p.2.length
    if f32Mag x = 0 then f32Zero (neg && Config.decZeroSign f) else x

/-- `dec(f)` (R160). -/
def dec : List Byte → F32
  | 0x2D#8 :: rest => decSigned true rest
  | 0x2B#8 :: rest => decSigned false rest
  | f => decSigned false f

/-- `decint(f)` (R160): at most nine digits. -/
def decInt (f : List Byte) : U32 := BitVec.ofNat 32 (digitsValue ((f.takeWhile isDigit).take 9))

/-- `dm_to_deg(v)` (R98, R165). -/
def dmToDeg (v : F32) : F32 :=
  let d := f32Floor (f32Div v 0x42C80000#32)
  f32Add d (f32Div (f32Sub v (f32Mul 0x42C80000#32 d)) 0x42700000#32)

/-- `project(lat, lon)` (R166). -/
def projectX (c : Config) (lon : F32) : F32 := f32Mul (f32Sub lon c.refLon) c.mPerDegLon
def projectY (c : Config) (lat : F32) : F32 := f32Mul (f32Sub lat c.refLat) c.mPerDegLat

/-- A value negated when its direction field begins with a byte (R98, R168). -/
def negateIf (f : List Byte) (b : Byte) (v : F32) : F32 := if fieldIs f b then f32Neg v else v

/-! ## The two sentence types -/

/-- `S`, the southern hemisphere, and `W`, west (R98). -/
def letterS : Byte := 0x53#8
def letterW : Byte := 0x57#8

/-- Whether a fix-quality sentence has a fix (R164). -/
def ggaAccepted (c : Config) (line : List Byte) : Bool :=
  !(field line 6).isEmpty && !fieldIs (field line 6) c.nofixSentinel

/-- The signed latitude and longitude of a fix-quality sentence (R96, R98, R164). -/
def ggaLat (line : List Byte) : F32 := negateIf (field line 3) letterS (dmToDeg (dec (field line 2)))
def ggaLon (line : List Byte) : F32 := negateIf (field line 5) letterW (dmToDeg (dec (field line 4)))

/-- `PRS.GGA` (R164), write by write. -/
def parseGga (c : Config) (line : List Byte) : Prog Unit :=
  if ggaAccepted c line then
    (writeReg gpsLatReg (ggaLat line)).andThen <|
    (writeReg gpsLonReg (ggaLon line)).andThen <|
    (writeReg gpsHdopReg (dec (field line 8))).andThen <|
    (writeReg gpsAltReg (dec (field line 9))).andThen <|
    (writeReg gpsXReg (projectX c (ggaLon line))).andThen <|
    (writeReg gpsYReg (projectY c (ggaLat line))).andThen <|
    orStatusProg stGga
  else .ret ()

/-- Whether a course/speed/date sentence is valid (R168). -/
def rmcAccepted (c : Config) (line : List Byte) : Bool := fieldIs (field line 2) c.validSentinel

/-- The signed magnetic variation (R97, R168). -/
def rmcMagvar (line : List Byte) : F32 := negateIf (field line 11) letterW (dec (field line 10))

/-- `PRS.RMC` (R168), write by write. -/
def parseRmc (c : Config) (line : List Byte) : Prog Unit :=
  if rmcAccepted c line then
    (writeReg gpsSpeedReg (dec (field line 7))).andThen <|
    (writeReg gpsCourseReg (dec (field line 8))).andThen <|
    (writeReg gpsDateReg (decInt (field line 9))).andThen <|
    (writeReg gpsMagvarReg (rmcMagvar line)).andThen <|
    orStatusProg stRmc
  else .ret ()

/-- `PRS.PARSE` (R162): dispatch on the first six bytes. -/
def parseLine (c : Config) (line : List Byte) : Prog Unit :=
  if line.take 6 = typeGga then parseGga c line
  else if line.take 6 = c.typeRmc then parseRmc c line
  else .ret ()

/-- `PRS.PARSE`, R162. -/
def execPrsParse (line : List Byte) (s : State) : Host.Outcome State Fault Refusal :=
  complete (parseLine s.blk.cfg line) s

/-- `PRS.GGA`, R164. -/
def execPrsGga (line : List Byte) (s : State) : Host.Outcome State Fault Refusal :=
  complete (parseGga s.blk.cfg line) s

/-- `PRS.RMC`, R168. -/
def execPrsRmc (line : List Byte) (s : State) : Host.Outcome State Fault Refusal :=
  complete (parseRmc s.blk.cfg line) s

/-- Arm `PRS.PARSE.GGA`, R162 and R164: the line of type `$GPGGA` with the rest given. -/
def execPrsParseGga (rest : List Byte) (s : State) : Host.Outcome State Fault Refusal :=
  complete (parseGga s.blk.cfg (typeGga ++ rest)) s

/-- Arm `PRS.PARSE.RMC`, R162 and R168: the line of type `TYPE_RMC` with the rest given. -/
def execPrsParseRmc (rest : List Byte) (s : State) : Host.Outcome State Fault Refusal :=
  complete (parseRmc s.blk.cfg (s.blk.cfg.typeRmc ++ rest)) s

/-- Arm `PRS.PARSE.IGNORE`, R162 and R109: "unrecognized types are ignored without error". -/
def execPrsParseIgnore (_line : List Byte) (s : State) : Host.Outcome State Fault Refusal := .next s

end Sys2Proof.Machine
end

