-- ==== Sys2Proof/Machine/Framer.lean ====
section
/-!
DEFINITION. The serial sentence framer (`41_framer.md` rules R135 to R144).
-/

namespace Sys2Proof.Machine

/-- The least index of a `FREE` slot (R137). -/
def firstFree (slots : List SlotStatus) : Option Nat := slots.findIdx? (· == .free)

/-- Step 1, the claim (R137). The flag says whether a slot is held afterwards. -/
def rxClaim (b : Block) : Block × Bool :=
  match b.frm.cur with
  | some _ => (b, true)
  | none =>
    match firstFree b.frm.slots with
    | none => ({ b with frm := { b.frm with nobuf := true } }, false)
    | some i =>
      ({ b with frm := { b.frm with slots := b.frm.slots.set i .claimed, cur := some i, w := 0, dropping := false } }, true)

/-- Step 2, the unexpected restart (R138). -/
def rxRestart (b : Block) : Block :=
  if b.frm.w ≠ 0 then { b with frm := { b.frm with restart := true, w := 0 } } else b

/-- The cursor after an append: one further, or rolled back with the overflow flag (R139). -/
def rxAdvance (b : Block) : Block :=
  if b.cfg.sentenceCap - 2 < b.frm.w + 1 then
    { b with frm := { b.frm with overflow := true, dropping := b.frm.dropping || b.cfg.overflowLatch } }
  else { b with frm := { b.frm with w := b.frm.w + 1 } }

/-- Step 3, the append (R139). -/
def rxAppend (v : Byte) (b : Block) : Except Fault Block :=
  match b.frm.cur with
  | none => .ok b
  | some i => (storeSlot i b.frm.w v b).map rxAdvance

/-- A slot marked ready and the claim released (R140). -/
def rxRelease (i : Nat) (b : Block) : Block :=
  { b with frm := { b.frm with slots := b.frm.slots.set i .ready, cur := none, dropping := false } }

/-- Step 4, the terminator and the null (R140). -/
def rxComplete (b : Block) : Except Fault Block :=
  match b.frm.cur with
  | none => .ok b
  | some i =>
    (storeSlot i b.frm.w terminator b).bind fun b1 => (storeSlot i (b.frm.w + 1) 0#8 b1).map (rxRelease i)

/-- Whether the switch `OVERFLOW_LATCH` ignores a byte that is no terminator (D6). -/
def rxIgnores (b : Block) : Bool := b.cfg.overflowLatch && b.frm.dropping

/-- Steps 2 and 3 for the start marker (R138, R139). -/
def rxStartArm (b : Block) : Except Fault Block :=
  if rxIgnores b then .ok b else rxAppend startMarker (rxRestart b)

/-- Step 3 for a data byte (R139). -/
def rxDataArm (v : Byte) (b : Block) : Except Fault Block := if rxIgnores b then .ok b else rxAppend v b

/-- A received byte: step 1, then its arm when a slot is held (R136). -/
def rxReceive (v : Byte) (arm : Block → Except Fault Block) (b : Block) : Except Fault Block :=
  let r := rxClaim (consumeEvent (.rx v) b)
  if r.2 then arm r.1 else .ok r.1

/-- The arm a byte's class selects (R90, R136). -/
def rxArm (v : Byte) : Block → Except Fault Block :=
  match rxClass v with
  | .start => rxStartArm
  | .term => rxComplete
  | .data => rxDataArm v

/-- `FRM.RX`, R136. -/
def execFrmRx (v : Byte) (s : State) : Host.Outcome State Fault Refusal :=
  doneOrFault (rxReceive v (rxArm v) s.blk) s

/-- Arm `FRM.RX.START`, R138: the byte `$` is received. -/
def execFrmRxStart (s : State) : Host.Outcome State Fault Refusal :=
  doneOrFault (rxReceive startMarker rxStartArm s.blk) s

/-- Arm `FRM.RX.TERM`, R140: the byte `\n` is received. -/
def execFrmRxTerm (s : State) : Host.Outcome State Fault Refusal :=
  doneOrFault (rxReceive terminator rxComplete s.blk) s

/-- Arm `FRM.RX.DATA`, R139: a byte that is neither is received. -/
def execFrmRxData (v : Byte) (s : State) : Host.Outcome State Fault Refusal :=
  doneOrFault (rxReceive v (rxDataArm v) s.blk) s

/-! ## The drain -/

/-- The three latches as a number: `f_nobuf` 1, `f_restart` 2, `f_overflow` 4. -/
def latchBits (f : Framer) : Nat := f.nobuf.toNat + 2 * f.restart.toNat + 4 * f.overflow.toNat

/-- The latches cleared (R142). -/
def clearLatches (b : Block) : Block :=
  { b with frm := { b.frm with nobuf := false, restart := false, overflow := false } }

/-- A status word with the latches of a number moved into it (R142). -/
def latchStatus (n : Nat) (status : U32) : U32 :=
  orStatusIf (n.testBit 2) stOverflow (orStatusIf (n.testBit 1) stRestart (orStatusIf (n.testBit 0) stNobuf status))

/-- Whether a slot is `READY`, as a number. -/
def readyBit (i : Nat) (b : Block) : Nat := if b.frm.slots[i]? = some .ready then 1 else 0

/-- Byte `k` of a slot's text (R26). -/
def slotByte (i k : Nat) (b : Block) : Byte := memRead (slotAddr b.cfg i k) b.mem

/-- Byte `k` of a raw field written (R143). -/
def storeRaw (i k : Nat) (v : Byte) (b : Block) : Block := { b with mem := memWrite (rawAddr b.cfg i k) v b.mem }

/-- The whole buffer of a slot copied to its raw field, byte by byte (R143, D9). -/
def copyRaw (c : Config) (i : Nat) : Prog Unit :=
  Prog.forEach
    (fun k => (Prog.ask fun b => (slotByte i k b).toNat).bind fun v => Prog.act (storeRaw i k (BitVec.ofNat 8 v)))
    (List.range c.sentenceCap)

/-- The slot freed (R143); only a `READY` slot is the main loop's to free (R72, log 24). -/
def freeReady (i : Nat) (b : Block) : Block := if readyBit i b = 1 then setSlot i .free b else b

/-- `drain_slot(i)` (R143), line by line. -/
def drainSlot (c : Config) (i : Nat) : Prog Unit :=
  (if i < c.nRaw then copyRaw c i else .ret ()).andThen <|
  (Prog.askBytes (slotByte i) c.sentenceCap 0).bind fun line =>
  (if checksumOk line then parseLine c line else orStatusProg stChkfail).andThen <|
  Prog.act (freeReady i)

/-- One turn of the loop of R142. -/
def drainTurn (c : Config) (i : Nat) : Prog Unit :=
  (Prog.ask (readyBit i)).bind fun r => if r = 1 then drainSlot c i else .ret ()

/-- `FRM.DRAIN` (R142): the atomic read-and-clear of the latches, their move to `status`, the slots in order, the phase. -/
def frmDrainProg (c : Config) : Prog Unit :=
  (Prog.micro (fun b => (clearLatches b, latchBits b.frm)) .ret).bind fun n =>
  (modifyReg statusReg (latchStatus n)).andThen <|
  (Prog.forEach (drainTurn c) (List.range c.nSlots)).andThen <|
  endPhase 2#4

/-- `FRM.DRAIN`, R142. -/
def execFrmDrain (s : State) : Host.Outcome State Fault Refusal :=
  complete (frmDrainProg s.blk.cfg) s

end Sys2Proof.Machine
end

