-- ==== Sys2Proof/Machine/HeadingSensor.lean ====
section
/-!
DEFINITION. The heading sensor driver (`43_heading.md` rules R185 to R200).
-/

namespace Sys2Proof.Machine

/-- The byte sent after a start: the 7-bit address and the direction (R100). -/
def addressByte (c : Config) (rw : Byte) : Byte := (c.headingAddr <<< 1) ||| rw

/-- `h_busy <- v` (R188, R199). -/
def setBusy (v : Bool) (b : Block) : Block := { b with hdg := { b.hdg with busy := v } }

/-- `h_state <- st` by the main loop (R199). -/
def setHState (st : HState) (b : Block) : Block := { b with hdg := { b.hdg with state := st } }

/-- The contract of `HDG.BEGIN`; against it there is no step (R188, R200). -/
def beginContract (b : Block) : Option Stop :=
  if b.hdg.state = .idle ∧ b.hdg.busy = false then none else some (.refusal .headingContract)

/-- `HDG.BEGIN` (R188), line by line. -/
def hdgBeginProg : Prog Unit :=
  (Prog.require beginContract).andThen <|
  (Prog.act (setBusy true)).andThen <|
  Prog.act (issueTw .start)

/-- `HDG.BEGIN`, R188. -/
def execHdgBegin (s : State) : Host.Outcome State Fault Refusal := perform hdgBeginProg s

/-- The abort arm (R196). -/
def hdgAbort (b : Block) : Block :=
  issueTw .stop { b with hdg := { b.hdg with value := b.cfg.headingErr, state := .error } }

/-- One bus operation and the state after it. -/
def hdgGo (op : TwOp) (st : HState) (b : Block) : Block := issueTw op { b with hdg := { b.hdg with state := st } }

/-- On `EV_START` (R190). -/
def hdgOnStart (b : Block) : Block :=
  if b.hdg.state = .idle ∧ b.hdg.busy = true then hdgGo (.send (addressByte b.cfg 0#8)) .addressedForWrite b else hdgAbort b

/-- On `EV_SLAW_ACK` (R191). -/
def hdgOnSlawAck (b : Block) : Block :=
  if b.hdg.state = .addressedForWrite then hdgGo (.send b.cfg.headingReg) .registerSent b else hdgAbort b

/-- On `EV_TXDATA_ACK` (R192). -/
def hdgOnTxdataAck (b : Block) : Block :=
  if b.hdg.state = .registerSent then hdgGo .start .repeatStart b else hdgAbort b

/-- On `EV_REPSTART` (R193). -/
def hdgOnRepStart (b : Block) : Block :=
  if b.hdg.state = .repeatStart then hdgGo (.send (addressByte b.cfg 1#8)) .addressedForRead b else hdgAbort b

/-- On `EV_SLAR_ACK` (R194). -/
def hdgOnSlarAck (b : Block) : Block :=
  if b.hdg.state = .addressedForRead then hdgGo .recvAck .addressedForRead b else hdgAbort b

/-- On `EV_RXDATA_ACK` (R195). -/
def hdgOnRxdataAck (data : Byte) (b : Block) : Block :=
  if b.hdg.state = .addressedForRead then
    hdgGo .recvNack .highByteReceived { b with hdg := { b.hdg with hi := data } }
  else hdgAbort b

/-- On `EV_RXDATA_NACK` (R197, R60). -/
def hdgOnRxdataNack (data : Byte) (b : Block) : Block :=
  if b.hdg.state = .highByteReceived then
    hdgGo .stop .done { b with hdg := { b.hdg with lo := data, value := b.hdg.hi ++ data } }
  else hdgAbort b

/-- The table of R187: the arm a class selects. -/
def hdgEvent (k : TwClass) (data : Byte) (b : Block) : Block :=
  match k with
  | .start => hdgOnStart b
  | .repStart => hdgOnRepStart b
  | .slawAck => hdgOnSlawAck b
  | .txdataAck => hdgOnTxdataAck b
  | .slarAck => hdgOnSlarAck b
  | .rxdataAck => hdgOnRxdataAck data b
  | .rxdataNack => hdgOnRxdataNack data b
  | .other => hdgAbort b

/-- `HDG.EVT`, R189. -/
def execHdgEvt (status data : Byte) (s : State) : Host.Outcome State Fault Refusal :=
  done (fun b => hdgEvent (twClass b.cfg.twCodes status) data (consumeEvent (.tw status data) b)) s

/-- Arm `HDG.EVT.START`, R190. -/
def execHdgEvtStart (status data : Byte) (s : State) : Host.Outcome State Fault Refusal :=
  done (fun b => hdgOnStart (consumeEvent (.tw status data) b)) s

/-- Arm `HDG.EVT.REPSTART`, R193. -/
def execHdgEvtRepstart (status data : Byte) (s : State) : Host.Outcome State Fault Refusal :=
  done (fun b => hdgOnRepStart (consumeEvent (.tw status data) b)) s

/-- Arm `HDG.EVT.SLAW_ACK`, R191. -/
def execHdgEvtSlawAck (status data : Byte) (s : State) : Host.Outcome State Fault Refusal :=
  done (fun b => hdgOnSlawAck (consumeEvent (.tw status data) b)) s

/-- Arm `HDG.EVT.TXDATA_ACK`, R192. -/
def execHdgEvtTxdataAck (status data : Byte) (s : State) : Host.Outcome State Fault Refusal :=
  done (fun b => hdgOnTxdataAck (consumeEvent (.tw status data) b)) s

/-- Arm `HDG.EVT.SLAR_ACK`, R194. -/
def execHdgEvtSlarAck (status data : Byte) (s : State) : Host.Outcome State Fault Refusal :=
  done (fun b => hdgOnSlarAck (consumeEvent (.tw status data) b)) s

/-- Arm `HDG.EVT.RXDATA_ACK`, R195. -/
def execHdgEvtRxdataAck (status data : Byte) (s : State) : Host.Outcome State Fault Refusal :=
  done (fun b => hdgOnRxdataAck data (consumeEvent (.tw status data) b)) s

/-- Arm `HDG.EVT.RXDATA_NACK`, R197. -/
def execHdgEvtRxdataNack (status data : Byte) (s : State) : Host.Outcome State Fault Refusal :=
  done (fun b => hdgOnRxdataNack data (consumeEvent (.tw status data) b)) s

/-- Arm `HDG.EVT.OTHER`, R196. -/
def execHdgEvtOther (status data : Byte) (s : State) : Host.Outcome State Fault Refusal :=
  done (fun b => hdgAbort (consumeEvent (.tw status data) b)) s

/-! ## The poll -/

/-- `HDG.REARM` (R199), write by write. -/
def rearm : Prog Unit :=
  (Prog.act (setBusy false)).andThen <|
  (Prog.act (setHState .idle)).andThen <|
  hdgBeginProg

/-- The factor pi/180 of R198, one `f32` constant. -/
def radPerDeg : F32 := 0x3C8EFA35#32

/-- `hdg_deg` of a raw value: tenths of a degree (R198). -/
def headingDeg (v : U16) : F32 := f32Div (f32OfInt v.toNat) 0x41200000#32

/-- The code of a state (R29). -/
def hCode : HState → Nat
  | .idle => 0
  | .addressedForWrite => 1
  | .registerSent => 2
  | .repeatStart => 3
  | .addressedForRead => 4
  | .highByteReceived => 5
  | .done => 6
  | .error => 7

/-- A good reading consumed (R198, first arm). -/
def pollDone : Prog Unit :=
  (readReg hValueReg).bind fun v =>
  (writeReg hdgRawReg v).andThen <|
  (writeReg hdgDegReg (headingDeg v)).andThen <|
  (readReg hdgDegReg).bind fun d =>
  (writeReg hdgRadReg (f32Mul d radPerDeg)).andThen <|
  rearm.andThen <|
  returns (.poll (.ready v))

/-- A failed reading recorded (R198, second arm). -/
def pollError (c : Config) : Prog Unit :=
  (writeReg hdgRawReg c.headingErr).andThen <|
  (orStatusProg stHdgerr).andThen <|
  rearm.andThen <|
  returns (.poll .error)

/-- A reading begun when nothing is in flight (R198, third and fourth arm). -/
def pollIdle : Prog Unit :=
  (Prog.ask fun b => b.hdg.busy.toNat).bind fun busy =>
  (if busy = 0 then hdgBeginProg else .ret ()).andThen <|
  returns (.poll .pending)

/-- `HDG.POLL` (R198); the state is read once (R198 (b)). -/
def hdgPollProg (c : Config) : Prog Unit :=
  (Prog.ask fun b => hCode b.hdg.state).bind fun st =>
  (if st = hCode .done then pollDone
   else if st = hCode .error then pollError c
   else if st = hCode .idle then pollIdle
   else returns (.poll .pending)).andThen <|
  endPhase 3#4

/-- `HDG.POLL`, R198. -/
def execHdgPoll (s : State) : Host.Outcome State Fault Refusal := perform (hdgPollProg s.blk.cfg) s

end Sys2Proof.Machine
end

