-- ==== Sys2Proof/Machine/Scheduler.lean ====
section
/-!
DEFINITION. The periodic scheduler (`40_scheduler.md` rules R120 to R127).
-/

namespace Sys2Proof.Machine

/-- `SCH.BEGIN` (R121), withheld while `run_en` is 0 (R127). A pending `OVF` is cancelled. -/
def schBegin (b : Block) : Block :=
  if b.env.runEn then
    setPhase 1#4 (cancelEvent .ovf
      { b with sch := { count := 0, overrun := false }, record := { b.record with cycle := b.record.cycle + 1#32 } })
  else b

/-- `SCH.BEGIN`, R121. -/
def execSchBegin (s : State) : Host.Outcome State Fault Refusal := done schBegin s

/-- One iteration of `SCH.WAIT` (R124): the overrun test first, then the threshold, else nothing. -/
def schWait (b : Block) : Block :=
  if b.sch.overrun then setPhase 0#4 (orStatus stOverrun b)
  else if b.cfg.cycleTicks ≤ b.sch.count then setPhase 0#4 b
  else b

/-- `SCH.WAIT`, R124: one iteration; the loop is the main loop coming back to it (log 32). -/
def execSchWait (s : State) : Host.Outcome State Fault Refusal := done schWait s

/-- `SCH.TICK` (R122): the wrap raises `OVF`. -/
def schTick (b : Block) : Block :=
  if b.sch.count = 2 ^ b.cfg.schedBits - 1 then raiseEvent .ovf { b with sch := { b.sch with count := 0 } }
  else { b with sch := { b.sch with count := b.sch.count + 1 } }

/-- `SCH.TICK`, R122. -/
def execSchTick (s : State) : Host.Outcome State Fault Refusal := done schTick s

/-- `SCH.OVF` (R123). -/
def schOvf (b : Block) : Block := { consumeEvent .ovf b with sch := { b.sch with overrun := true } }

/-- `SCH.OVF`, R123. -/
def execSchOvf (s : State) : Host.Outcome State Fault Refusal := done schOvf s

/-- `SCH.STCLR` (R126). -/
def schStclrProg : Prog Unit := (writeReg statusReg 0#32).andThen (endPhase 9#4)

/-- `SCH.STCLR`, R126. -/
def execSchStclr (s : State) : Host.Outcome State Fault Refusal := complete schStclrProg s

end Sys2Proof.Machine
end

