-- ==== Sys2Proof/Machine/RefDevice.lean ====
section
/-!
DEFINITION. The storage device's side of one bus exchange (`48_storage.md` rule R276): the reference device of rule R310, a
script of answers, and the unknown device whose answers are free.
-/

namespace Sys2Proof.Machine

/-- The `BLOCK_SIZE` bytes of block `a` of the reference device. -/
def refBlock (c : Config) (d : RefDevice) (a : Nat) : List Byte := memReadList (a * c.blockSize) c.blockSize d.blk

/-- Bytes appended to the answer queue. -/
def refAnswer (bs : List Byte) (d : RefDevice) : RefDevice := { d with queue := d.queue ++ bs }

/-- What the device does when a frame closes, by its six bytes (R310). -/
def refCommand (c : Config) (d : RefDevice) : List Byte → RefDevice
  | k :: a0 :: a1 :: a2 :: a3 :: _ =>
    let a := (ofBe32 a0 a1 a2 a3).toNat
    match (k &&& 0x3F#8).toNat with
    | 0x00 => refAnswer [0x01#8] { d with idle := true }
    | 0x08 => refAnswer [0x01#8, 0x00#8, 0x00#8, a2, a3] d
    | 0x37 => refAnswer [if d.idle then 0x01#8 else 0x00#8] d
    | 0x29 =>
      if 0 < d.warm then refAnswer [0x01#8] { d with warm := d.warm - 1 }
      else refAnswer [0x00#8] { d with idle := false }
    | 0x3A => refAnswer (0x00#8 :: d.ocr) d
    | 0x09 => refAnswer ([0x00#8, 0xFF#8, 0xFE#8] ++ d.csd ++ [0x00#8, 0x00#8]) d
    | 0x11 =>
      if a < d.nb then refAnswer ([0x00#8, 0xFF#8, 0xFE#8] ++ refBlock c d a ++ [0x00#8, 0x00#8]) d
      else refAnswer [0x40#8] d
    | 0x18 => if a < d.nb then refAnswer [0x00#8] { d with recv := .token a } else refAnswer [0x40#8] d
    | _ => refAnswer [0x04#8] d
  | _ => d

/-- A byte outside receive mode: it opens a frame, continues one, closes one, or is ignored (R310). -/
def refFrame (c : Config) (v : Byte) (d : RefDevice) : RefDevice :=
  match d.frame with
  | [] => if v &&& 0xC0#8 = 0x40#8 then { d with frame := [v] } else d
  | fs => if fs.length < 5 then { d with frame := fs ++ [v] } else refCommand c { d with frame := [] } (fs ++ [v])

/-- A byte taken by the device (R310). -/
def refTake (c : Config) (v : Byte) (d : RefDevice) : RefDevice :=
  match d.recv with
  | .off => refFrame c v d
  | .token a => if v = 0xFE#8 then { d with recv := .data a 0 } else d
  | .data a i =>
    { d with blk := memWrite (a * c.blockSize + i) v d.blk
             recv := if i + 1 < c.blockSize then .data a (i + 1) else .tail 2 }
  | .tail n =>
    if 1 < n then { d with recv := .tail (n - 1) }
    else refAnswer (0xE5#8 :: List.replicate d.busyN 0x00#8) { d with recv := .off }

/-- One exchange with the reference device: the head of its queue or 0xFF, then the byte is taken (R310). -/
def refExchange (c : Config) (v : Byte) (d : RefDevice) : Byte × RefDevice :=
  (d.queue.headD 0xFF#8, refTake c v { d with queue := d.queue.tail })

/-- One exchange with whatever device is there. `sent` is every byte sent so far, this one first (R276, log 5). -/
def deviceExchange (c : Config) (v : Byte) (sent : List Byte) : Device → Byte × Device
  | .unknown => (Config.spiAnswer sent, .unknown)
  | .script (r :: rs) => (r, .script rs)
  | .script [] => (Config.spiAnswer sent, .unknown)
  | .reference d => ((refExchange c v d).1, .reference (refExchange c v d).2)

end Sys2Proof.Machine
end

