-- ==== Sys2Proof/Machine/StorageLogger.lean ====
section
/-!
DEFINITION. The block storage logger (`48_storage.md` rules R275 to R300). Every exchange on the bus is one micro-step.
-/

namespace Sys2Proof.Machine

/-! ## The bus -/

/-- `SpiXchg(v)` (R276): the byte is put on the bus, the device answers in the same exchange. -/
def spiXchg (v : Byte) (b : Block) : Block × Nat :=
  let r := deviceExchange b.cfg v (v :: b.env.spiSent) b.env.device
  ({ b with env := { b.env with device := r.2, spiSent := v :: b.env.spiSent } }, r.1.toNat)

/-- An exchange as a micro-step whose value is the byte received. -/
def xchg (v : Byte) : Prog Byte := Prog.micro (spiXchg v) fun n => .ret (BitVec.ofNat 8 n)

/-- The bytes sent in order, the answers discarded. -/
def sendBytes : List Byte → Prog Unit
  | [] => .ret ()
  | v :: vs => (xchg v).andThen (sendBytes vs)

/-- `n` bytes received, a filler sent for each. -/
def recvBytes (filler : Byte) : Nat → Prog (List Byte)
  | 0 => .ret []
  | n + 1 => (xchg filler).bind fun r => (recvBytes filler n).bind fun rs => .ret (r :: rs)

/-- `spi_cs <- v` (R277). -/
def setCs (v : Bool) (b : Block) : Block := { b with sto := { b.sto with cs := v } }

/-- `spi_fast <- v` (R277, R289). -/
def setFast (v : Bool) (b : Block) : Block := { b with sto := { b.sto with fast := v } }

/-- `enabled <- v` (R299). -/
def setEnabled (v : Bool) (b : Block) : Block := { b with sto := { b.sto with enabled := v } }

/-- The end of a transaction (R277). -/
def deselect : Prog Unit := Prog.act (setCs false)

/-! ## Commands -/

/-- The answer poll of R278 with at most `n` exchanges; no value is `Timeout`. -/
def answerPoll (filler : Byte) : Nat → Prog (Option Byte)
  | 0 => .ret none
  | n + 1 => (xchg filler).bind fun r => if r.msb then answerPoll filler n else .ret (some r)

/-- `STO.CMD` (R278): select, the six bytes of the frame, the poll. The device stays selected. -/
def command (c : Config) (f : CmdFrame) : Prog (Option Byte) :=
  (Prog.act (setCs true)).andThen <|
  (sendBytes (frameBytes c f)).andThen <|
  answerPoll c.answers.filler c.respRetryMax

/-- A command whose transaction ends with its answer (R277). -/
def commandAlone (c : Config) (f : CmdFrame) : Prog (Option Byte) :=
  (command c f).bind fun r => deselect.andThen (.ret r)

/-- Arm `STO.CMD.IFCOND` (R280): the answer idle, then four bytes that echo the argument. -/
def cmdIfcond (c : Config) : Prog Bool :=
  (command c frameIfcond).bind fun r =>
  if r = some c.answers.idle then
    (recvBytes c.answers.filler 4).bind fun e =>
    deselect.andThen (.ret (e.getD 2 0#8 == 0x01#8 && e.getD 3 0#8 == 0xAA#8))
  else deselect.andThen (.ret false)

/-- Four bytes received, most significant first (R283). -/
def wordOf (o : List Byte) : U32 := ofBe32 (o.getD 0 0#8) (o.getD 1 0#8) (o.getD 2 0#8) (o.getD 3 0#8)

/-- Arm `STO.CMD.READOCR` (R283): the register, or a failure. -/
def cmdReadocr (c : Config) : Prog (Option U32) :=
  (command c frameReadocr).bind fun r =>
  if r = some c.answers.ready then
    (recvBytes c.answers.filler 4).bind fun o => deselect.andThen (.ret (some (wordOf o)))
  else deselect.andThen (.ret none)

/-- The token poll of R288 with at most `n` exchanges: the first byte that is not the filler, else the filler. -/
def tokenPoll (filler : Byte) : Nat → Prog Byte
  | 0 => .ret filler
  | n + 1 => (xchg filler).bind fun t => if t = filler then tokenPoll filler n else .ret t

/-- `n` bytes received from the `i`-th on, each kept or discarded as it comes (R288). -/
def recvInto (filler : Byte) (keep : Nat → Byte → Prog Unit) : Nat → Nat → Prog Unit
  | 0, _ => .ret ()
  | n + 1, i => (xchg filler).bind fun r => (keep i r).andThen (recvInto filler keep n (i + 1))

/-- `read_data(n)` (R288): the token, the data, the two checksum bytes; whether the token came. -/
def readData (c : Config) (keep : Nat → Byte → Prog Unit) (n : Nat) : Prog Bool :=
  (tokenPoll c.answers.filler c.tokenRetryMax).bind fun t =>
  if t = c.answers.dataToken then
    (recvInto c.answers.filler keep n 0).andThen <|
    (recvBytes c.answers.filler 2).bind fun _ => .ret true
  else .ret false

/-- `csd[i] <- v` (R285). -/
def setCsdByte (i : Nat) (v : Byte) (b : Block) : Block := { b with sto := { b.sto with csd := b.sto.csd.set i v } }

/-- `lead[i] <- v` (R290). -/
def setLeadByte (i : Nat) (v : Byte) (b : Block) : Block := { b with sto := { b.sto with lead := b.sto.lead.set i v } }

/-- A received byte kept in `csd`. -/
def keepCsd (i : Nat) (v : Byte) : Prog Unit := Prog.act (setCsdByte i v)

/-- A received byte kept in `lead` when it is one of the first four (R290). -/
def keepLead (i : Nat) (v : Byte) : Prog Unit := if i < 4 then Prog.act (setLeadByte i v) else .ret ()

/-- `csd` after a failed read: free bytes (R285, U2). -/
def forgetCsd (b : Block) : Block := { b with sto := { b.sto with csd := freshBytes b 16 }, fresh := b.fresh + 16 }

/-- `lead` after a failed read: free bytes (R290, U2). -/
def forgetLead (b : Block) : Block := { b with sto := { b.sto with lead := freshBytes b 4 }, fresh := b.fresh + 4 }

/-- A data block read after its command's answer, or the buffer left undefined (R285, R290). -/
def readBlockData (c : Config) (keep : Nat → Byte → Prog Unit) (forget : Block → Block) (n : Nat) (r : Option Byte) :
    Prog Bool :=
  (if r = some c.answers.ready then readData c keep n else .ret false).bind fun ok =>
  (if ok then .ret () else Prog.act forget).andThen <| deselect.andThen (.ret ok)

/-- Arm `STO.CMD.READCSD` (R285). -/
def cmdReadcsd (c : Config) : Prog Bool :=
  (command c frameReadcsd).bind (readBlockData c keepCsd forgetCsd 16)

/-- `STO.CMD`, R278. -/
def execStoCmd (cmd : BitVec 6) (arg : U32) (trail : Byte) (s : State) : Host.Outcome State Fault Refusal :=
  done (fun b => let r := (command b.cfg ⟨cmd, arg, trail⟩).run b
                 setRet (.answer r.1) r.2) s

/-- Arm `STO.CMD.RESET`, R279. -/
def execStoCmdReset (s : State) : Host.Outcome State Fault Refusal :=
  done (fun b => let r := (commandAlone b.cfg frameReset).run b
                 setRet (.answer r.1) r.2) s

/-- Arm `STO.CMD.IFCOND`, R280: whether the step succeeds. -/
def execStoCmdIfcond (s : State) : Host.Outcome State Fault Refusal :=
  done (fun b => let r := (cmdIfcond b.cfg).run b
                 setRet (.flag r.1) r.2) s

/-- Arm `STO.CMD.APP`, R281. -/
def execStoCmdApp (s : State) : Host.Outcome State Fault Refusal :=
  done (fun b => let r := (commandAlone b.cfg frameApp).run b
                 setRet (.answer r.1) r.2) s

/-- Arm `STO.CMD.OPCOND`, R282. -/
def execStoCmdOpcond (s : State) : Host.Outcome State Fault Refusal :=
  done (fun b => let r := (commandAlone b.cfg frameOpcond).run b
                 setRet (.answer r.1) r.2) s

/-- Arm `STO.CMD.READOCR`, R283: the register, or a failure. -/
def execStoCmdReadocr (s : State) : Host.Outcome State Fault Refusal :=
  done (fun b => let r := (cmdReadocr b.cfg).run b
                 setRet (.word r.1) r.2) s

/-- Arm `STO.CMD.READCSD`, R285: whether the register was read. -/
def execStoCmdReadcsd (s : State) : Host.Outcome State Fault Refusal :=
  done (fun b => let r := (cmdReadcsd b.cfg).run b
                 setRet (.flag r.1) r.2) s

/-- Arm `STO.CMD.READBLK`, R286: the command alone; the data block that follows is `STO.READBLK`'s. -/
def execStoCmdReadblk (addr : U32) (s : State) : Host.Outcome State Fault Refusal :=
  done (fun b => let r := (command b.cfg (frameReadblk addr)).run b
                 setRet (.answer r.1) r.2) s

/-- Arm `STO.CMD.WRITEBLK`, R287: the command alone; the data block that follows is `STO.WRITE`'s. -/
def execStoCmdWriteblk (addr : U32) (s : State) : Host.Outcome State Fault Refusal :=
  done (fun b => let r := (command b.cfg (frameWriteblk addr)).run b
                 setRet (.answer r.1) r.2) s

/-! ## Block read and search -/

/-- `STO.READBLK` (R290). -/
def readBlock (c : Config) (addr : U32) : Prog Bool :=
  (command c (frameReadblk addr)).bind (readBlockData c keepLead forgetLead c.blockSize)

/-- `STO.READBLK`, R290. -/
def execStoReadblk (addr : U32) (s : State) : Host.Outcome State Fault Refusal :=
  done (fun b => let r := (readBlock b.cfg addr).run b
                 setRet (.flag r.1) r.2) s

/-- `lead[i]` (R40). -/
def leadByte (i : Nat) (b : Block) : Byte := b.sto.lead.getD i 0#8

/-- Whether the four bytes a block begins with make it a used one (R291). -/
def leadUsed (c : Config) (lead : List Byte) : Bool := lead == guardImage c

/-- A block read and examined: used or free, or a failed read (R291, R292). -/
def probeBlock (c : Config) (a : Nat) : Prog (Option Bool) :=
  (readBlock c (BitVec.ofNat 32 a)).bind fun ok =>
  if ok then (Prog.askBytes leadByte 4 0).bind fun lead => .ret (some (leadUsed c lead)) else .ret none

/-- The loop of R292 with at most `fuel` turns: the first free block, or the capacity; no value after a failed read. -/
def bisect (probe : Nat → Prog (Option Bool)) : Nat → Nat → Nat → Prog (Option Nat)
  | 0, _, hi => .ret (some hi)
  | fuel + 1, lo, hi =>
    if 1 < hi - lo then
      (probe (lo + (hi - lo) / 2)).bind fun r =>
      match r with
      | none => .ret none
      | some true => bisect probe fuel (lo + (hi - lo) / 2) hi
      | some false => bisect probe fuel lo (lo + (hi - lo) / 2)
    else .ret (some hi)

/-- The search of R292 over `cap` blocks, given how a block is probed. Thirty-two turns halve any u32 range to one block. -/
def searchWith (probe : Nat → Prog (Option Bool)) (cap : Nat) : Prog (Option Nat) :=
  (probe 0).bind fun r =>
  match r with
  | none => .ret none
  | some false => .ret (some 0)
  | some true =>
    (bisect probe 32 0 cap).bind fun k =>
    match k with
    | none => .ret none
    | some hi => .ret (some (if hi = cap then 0 else hi))

/-- `find_available_block()` (R292). A failed read raises the handshake failure, `enabled <- 0` (R315, R325; log 41). -/
def findBlock (c : Config) : Prog (Option Nat) :=
  (readReg capacityReg).bind fun cap =>
  (searchWith (probeBlock c) cap.toNat).bind fun k =>
  match k with
  | some k => .ret (some k)
  | none => (Prog.act (setEnabled false)).andThen (.ret none)

/-- `STO.FIND`, R292: a block number, or a failure. -/
def execStoFind (s : State) : Host.Outcome State Fault Refusal :=
  done (fun b => let r := (findBlock b.cfg).run b
                 setRet (.word (r.1.map (BitVec.ofNat 32))) r.2) s

/-! ## Initialization -/

/-- Step 3 of R289 with at most `n` rounds: whether the device reports ready. -/
def opcondLoop (c : Config) : Nat → Prog Bool
  | 0 => .ret false
  | n + 1 =>
    (commandAlone c frameApp).bind fun a =>
    if a = some c.answers.idle ∨ a = some c.answers.ready then
      (commandAlone c frameOpcond).bind fun r =>
      if r = some c.answers.ready then .ret true
      else if r = some c.answers.idle then opcondLoop c n
      else .ret false
    else .ret false

/-- Block-addressed mode: bit 6 of the register's first byte (R284). -/
def blockAddressed (ocr : Option U32) : Bool :=
  match ocr with
  | some o => o.getLsbD 30
  | none => false

/-- `C_SIZE` of the bytes 7, 8 and 9 of the register (R106). -/
def cSize (csd : List Byte) : BitVec 22 := (csd.getD 0 0#8).truncate 6 ++ csd.getD 1 0#8 ++ csd.getD 2 0#8

/-- `csd[i]` (R40). -/
def csdByte (i : Nat) (b : Block) : Byte := b.sto.csd.getD i 0#8

/-- `capacity_blocks <- (C_SIZE + 1) * 512`, in u32 (R106, R289). -/
def setCapacity : Prog Unit :=
  (Prog.askBytes csdByte 3 7).bind fun csd => writeReg capacityReg (((cSize csd).zeroExtend 32 + 1#32) * 512#32)

/-- Step 9 of R289. -/
def startLogging (k : Nat) : Prog Unit :=
  (writeReg nextBlockReg (BitVec.ofNat 32 k)).andThen (Prog.act (setEnabled true))

/-- One step of the initialization, with the steps after it, or the failure exit of R289. -/
def orFail (step : Prog Bool) (next : Prog Unit) : Prog Unit := step.bind fun ok => if ok then next else deselect

/-- `STO.INIT` (R289). -/
def stoInitProg (c : Config) : Prog Unit :=
  (Prog.act (setEnabled false)).andThen <|
  (Prog.act (setFast false)).andThen <|
  orFail ((commandAlone c frameReset).bind fun r => .ret (decide (r = some c.answers.idle))) <|
  orFail (cmdIfcond c) <|
  orFail (opcondLoop c c.opcondRetryMax) <|
  orFail ((cmdReadocr c).bind fun o => .ret (blockAddressed o)) <|
  (Prog.act (setFast true)).andThen <|
  orFail (cmdReadcsd c) <|
  setCapacity.andThen <|
  (findBlock c).bind fun k =>
  match k with
  | some k => startLogging k
  | none => deselect

/-- `STO.INIT`, R289. -/
def execStoInit (s : State) : Host.Outcome State Fault Refusal := complete (stoInitProg s.blk.cfg) s

/-! ## The per-cycle write -/

/-- The image streamed byte by byte, each byte as it stands when it is sent (R295 (a)). -/
def sendRecord : Nat → Nat → Prog Unit
  | 0, _ => .ret ()
  | n + 1, i =>
    (Prog.micro (fun b => spiXchg (recordByte i b) b) fun _ => .ret ()).andThen (sendRecord n (i + 1))

/-- Whether a data response is "data accepted" (R296). -/
def dataAccepted (c : Config) (d : Byte) : Bool := d &&& c.answers.respMask == c.answers.respAccepted

/-- The busy wait of R298 with at most `n` exchanges: whether the device is ready in time. -/
def busyPoll (c : Config) : Nat → Prog Bool
  | 0 => .ret c.busyIgnored
  | n + 1 => (xchg c.answers.filler).bind fun r => if r = c.answers.busy then busyPoll c n else .ret true

/-- The number of exchanges the busy wait may take: one in the variant of D35. -/
def busyTries (c : Config) : Nat := if c.busyIgnored then 1 else c.busyRetryMax

/-- The data phase of a write: whether the device took the block (R295, R296, R298). -/
def writeData (c : Config) : Prog Bool :=
  (sendBytes [c.answers.dataToken]).andThen <|
  (sendRecord c.blockSize 0).andThen <|
  (sendBytes [c.answers.filler, c.answers.filler]).andThen <|
  (xchg c.answers.filler).bind fun d =>
  if dataAccepted c d then busyPoll c (busyTries c) else .ret false

/-- `next_block <- next_block + 1` (R295). -/
def bumpBlock : Prog Unit := modifyReg nextBlockReg (· + 1#32)

/-- The exit `disable` of R295, without its phase. -/
def disableStorage : Prog Unit := (Prog.act (setEnabled false)).andThen deselect

/-- The write of one record to block `next_block` (R295). -/
def writeRecord (c : Config) : Prog Unit :=
  (readReg nextBlockReg).bind fun a =>
  (command c (frameWriteblk a)).bind fun r =>
  (if r = some c.answers.ready then writeData c else .ret false).bind fun ok =>
  if ok then deselect.andThen bumpBlock else disableStorage

/-- The write, or the latch of the full device (R295, R300). -/
def writeIfRoom (c : Config) : Prog Unit :=
  (readReg nextBlockReg).bind fun next =>
  (readReg capacityReg).bind fun cap =>
  if cap.toNat ≤ next.toNat then Prog.act (setEnabled false) else writeRecord c

/-- `STO.WRITE` (R295, R300). -/
def stoWriteProg (c : Config) : Prog Unit :=
  (Prog.ask fun b => b.sto.enabled.toNat).bind fun enabled =>
  (if enabled = 1 then writeIfRoom c else .ret ()).andThen <|
  endPhase 8#4

/-- `STO.WRITE`, R295. -/
def execStoWrite (s : State) : Host.Outcome State Fault Refusal := complete (stoWriteProg s.blk.cfg) s

end Sys2Proof.Machine
end

