-- ==== Sys2Proof/Machine/Dispatch.lean ====
section
/-!
DEFINITION. The dispatch: the meaning of each instruction, one arm per constructor.
-/

namespace Sys2Proof.Machine

/-- What one instruction does to the machine, whatever the phase and whichever agent it belongs to (log 37). -/
def exec (i : Instr) (s : State) : Host.Outcome State Fault Refusal :=
  match i with
  | .schBegin => Sys2Proof.Machine.execSchBegin s
  | .schWait => Sys2Proof.Machine.execSchWait s
  | .schTick => Sys2Proof.Machine.execSchTick s
  | .schOvf => Sys2Proof.Machine.execSchOvf s
  | .schStclr => Sys2Proof.Machine.execSchStclr s
  | .frmRx b => Sys2Proof.Machine.execFrmRx b s
  | .frmDrain => Sys2Proof.Machine.execFrmDrain s
  | .prsChk line => Sys2Proof.Machine.execPrsChk line s
  | .prsParse line => Sys2Proof.Machine.execPrsParse line s
  | .prsGga line => Sys2Proof.Machine.execPrsGga line s
  | .prsRmc line => Sys2Proof.Machine.execPrsRmc line s
  | .hdgBegin => Sys2Proof.Machine.execHdgBegin s
  | .hdgEvt status data => Sys2Proof.Machine.execHdgEvt status data s
  | .hdgPoll => Sys2Proof.Machine.execHdgPoll s
  | .encEdge ab => Sys2Proof.Machine.execEncEdge ab s
  | .encDrain => Sys2Proof.Machine.execEncDrain s
  | .estUpdate => Sys2Proof.Machine.execEstUpdate s
  | .gdeCrossed wp px py => Sys2Proof.Machine.execGdeCrossed wp px py s
  | .gdeAdvance => Sys2Proof.Machine.execGdeAdvance s
  | .gdeAngle px py heading => Sys2Proof.Machine.execGdeAngle px py heading s
  | .gdeUpdate => Sys2Proof.Machine.execGdeUpdate s
  | .actFwd c => Sys2Proof.Machine.execActFwd c s
  | .actStop => Sys2Proof.Machine.execActStop s
  | .actRev c => Sys2Proof.Machine.execActRev c s
  | .actSteer angle => Sys2Proof.Machine.execActSteer angle s
  | .actUpdate => Sys2Proof.Machine.execActUpdate s
  | .actStartup => Sys2Proof.Machine.execActStartup s
  | .stoCmd cmd arg trail => Sys2Proof.Machine.execStoCmd cmd arg trail s
  | .stoInit => Sys2Proof.Machine.execStoInit s
  | .stoFind => Sys2Proof.Machine.execStoFind s
  | .stoReadblk addr => Sys2Proof.Machine.execStoReadblk addr s
  | .stoWrite => Sys2Proof.Machine.execStoWrite s
  | .plsStart ch => Sys2Proof.Machine.execPlsStart ch s
  | .plsMatch ch => Sys2Proof.Machine.execPlsMatch ch s
  | .plsTick ch => Sys2Proof.Machine.execPlsTick ch s
  | .frmRxStart => Sys2Proof.Machine.execFrmRxStart s
  | .frmRxTerm => Sys2Proof.Machine.execFrmRxTerm s
  | .frmRxData b => Sys2Proof.Machine.execFrmRxData b s
  | .prsParseGga rest => Sys2Proof.Machine.execPrsParseGga rest s
  | .prsParseRmc rest => Sys2Proof.Machine.execPrsParseRmc rest s
  | .prsParseIgnore line => Sys2Proof.Machine.execPrsParseIgnore line s
  | .hdgEvtStart status data => Sys2Proof.Machine.execHdgEvtStart status data s
  | .hdgEvtRepstart status data => Sys2Proof.Machine.execHdgEvtRepstart status data s
  | .hdgEvtSlawAck status data => Sys2Proof.Machine.execHdgEvtSlawAck status data s
  | .hdgEvtTxdataAck status data => Sys2Proof.Machine.execHdgEvtTxdataAck status data s
  | .hdgEvtSlarAck status data => Sys2Proof.Machine.execHdgEvtSlarAck status data s
  | .hdgEvtRxdataAck status data => Sys2Proof.Machine.execHdgEvtRxdataAck status data s
  | .hdgEvtRxdataNack status data => Sys2Proof.Machine.execHdgEvtRxdataNack status data s
  | .hdgEvtOther status data => Sys2Proof.Machine.execHdgEvtOther status data s
  | .encEdgeNochg => Sys2Proof.Machine.execEncEdgeNochg s
  | .encEdgeB => Sys2Proof.Machine.execEncEdgeB s
  | .encEdgeA => Sys2Proof.Machine.execEncEdgeA s
  | .encEdgeBoth => Sys2Proof.Machine.execEncEdgeBoth s
  | .stoCmdReset => Sys2Proof.Machine.execStoCmdReset s
  | .stoCmdIfcond => Sys2Proof.Machine.execStoCmdIfcond s
  | .stoCmdApp => Sys2Proof.Machine.execStoCmdApp s
  | .stoCmdOpcond => Sys2Proof.Machine.execStoCmdOpcond s
  | .stoCmdReadocr => Sys2Proof.Machine.execStoCmdReadocr s
  | .stoCmdReadcsd => Sys2Proof.Machine.execStoCmdReadcsd s
  | .stoCmdReadblk addr => Sys2Proof.Machine.execStoCmdReadblk addr s
  | .stoCmdWriteblk addr => Sys2Proof.Machine.execStoCmdWriteblk addr s

end Sys2Proof.Machine
end

