-- ==== Sys2Proof/Machine/Loop.lean ====
section
/-!
DEFINITION. What one step of the block is: the boot sequence and the cycle of the main-loop agent (`70_reset_and_hazards.md`
rule R351, `40_scheduler.md` rule R125, `10_state.md` rule R24), the steps of the environment and of the handlers
(`60_exceptions.md` rules R330 to R334), and the fetch of a scripted operation.
-/

namespace Sys2Proof.Machine

/-! ## The main loop -/

/-- The micro-steps of an operation that other agents may interrupt (R11, R67). -/
def loopProg (c : Config) : LoopOp → Prog Unit
  | .frmDrain => frmDrainProg c
  | .hdgPoll => hdgPollProg c
  | .encDrain => encDrainProg
  | .estUpdate => estUpdateProg c
  | .gdeUpdate => gdeUpdateProg c
  | .actUpdate => actUpdateProg c
  | .stoWrite => stoWriteProg c
  | .schStclr => schStclrProg
  | .actStartup => actStartupProg c
  | .startupPulse _ => startupPulse c
  | .stoInit => stoInitProg c
  | .hdgBegin => hdgBeginProg

/-- What the main loop does when an operation's micro-steps are all made: the waits of `ACT.STARTUP` (R264), else nothing. -/
def nextTask (c : Config) : LoopOp → Option Task
  | .actStartup => firstWait c
  | .startupPulse left => some (.startup left)
  | _ => none

/-- What is left of an operation after the micro-steps that yielded `path`. -/
def remaining (c : Config) (which : LoopOp) (path : List Nat) : Prog Unit := (loopProg c which).follow path

/-- The task of the main loop after the micro-steps of an operation that yielded `path`. -/
def taskAfter (c : Config) (which : LoopOp) (path : List Nat) : Option Task :=
  if (remaining c which path).isDone then nextTask c which else some (.op which path)

/-- The next micro-step of an operation. -/
def advance (which : LoopOp) (path : List Nat) (s : State) : State :=
  match (remaining s.blk.cfg which path).first s.blk with
  | none => { s with task := nextTask s.blk.cfg which }
  | some r => { s with blk := r.1, task := taskAfter s.blk.cfg which (path ++ [r.2]) }

/-- The next micro-step of an operation, or the reason why it cannot be made (R200, R231). -/
def microStep (which : LoopOp) (path : List Nat) (s : State) : Host.Outcome State Fault Refusal :=
  match (remaining s.blk.cfg which path).blocked s.blk with
  | some e => e.outcome
  | none => .next (advance which path s)

/-- One look at the wait of `ACT.STARTUP` (R264): not over yet, or the next pulse is begun, or the operation ends. -/
def startupWait (left : Nat) (s : State) : State :=
  if startupReady s.blk then
    match left with
    | 0 => { s with task := none }
    | n + 1 => { s with task := some (.op (.startupPulse n) []) }
  else s

/-- Step 1 of the boot sequence: every register at its reset value (R351). -/
def resetBlock (b : Block) : Block := Block.reset b.cfg b.env b.fresh

/-- Step 2: the quadrature inputs sampled once (R351). -/
def sampleInputs (b : Block) : Block := { b with enc := { b.enc with qPrev := b.env.sample } }

/-- Step 3: the six sources enabled together (R331, R351). -/
def enableSources (b : Block) : Block := { b with irq := { b.irq with enabled := true } }

/-- The outcome of a step with the boot sequence at a later place. -/
def thenBoot (boot : Boot) : Host.Outcome State Fault Refusal → Host.Outcome State Fault Refusal
  | .next s => .next { s with boot := boot }
  | .fault e => .fault e
  | .refused r => .refused r

/-- The operation of the phase, or its first micro-step (R24, R125). Phases 10 to 15 are never reached (R24). -/
def phaseStep (s : State) : Host.Outcome State Fault Refusal :=
  match s.blk.phase.toNat with
  | 0 => exec .schBegin s
  | 1 => microStep .frmDrain [] s
  | 2 => microStep .hdgPoll [] s
  | 3 => microStep .encDrain [] s
  | 4 => microStep .estUpdate [] s
  | 5 => microStep .gdeUpdate [] s
  | 6 => microStep .actUpdate [] s
  | 7 => microStep .stoWrite [] s
  | 8 => microStep .schStclr [] s
  | 9 => exec .schWait s
  | _ => .fault .phaseReserved

/-- The boot sequence, one step at a time, then the cycle loop (R351). -/
def bootStep (s : State) : Host.Outcome State Fault Refusal :=
  match s.boot with
  | .reset => .next { s with blk := resetBlock s.blk, boot := .sample }
  | .sample => .next { s with blk := sampleInputs s.blk, boot := .enable }
  | .enable => .next { s with blk := enableSources s.blk, boot := .startup }
  | .startup => thenBoot .init (microStep .actStartup [] s)
  | .init => thenBoot .begin (microStep .stoInit [] s)
  | .begin => thenBoot .enter (microStep .hdgBegin [] s)
  | .enter => .next { s with blk := setPhase 0#4 s.blk, boot := .loop }
  | .loop => phaseStep s

/-- The next micro-step of the main-loop agent (R11): the operation in progress goes on, or the next one begins. -/
def mainStep (s : State) : Host.Outcome State Fault Refusal :=
  match s.task with
  | some (.op which path) => microStep which path s
  | some (.startup left) => .next (startupWait left s)
  | none => bootStep s

/-! ## The environment and the handlers -/

/-- The quadrature inputs take new levels; a change raises `QE` (R330, R356). -/
def applyQuad (ab : BitVec 2) (b : Block) : Block :=
  let b1 := { b with env := { b.env with qa := ab.getLsbD 1, qb := ab.getLsbD 0 } }
  if ab = b.env.sample then b1 else raiseEvent .qe b1

/-- The level of `run_en` (R127). -/
def applyRunEn (level : Bool) (b : Block) : Block := { b with env := { b.env with runEn := level } }

/-- The handler step of the `k`-th pending event; the main loop's place is kept as it is (R332 to R334). -/
def handlerStep (k : Nat) (s : State) : Host.Outcome State Fault Refusal :=
  match s.blk.irq.pending[k]? with
  | some e => exec (handlerOf e s.blk) s
  | none => .next s

/-- `rst` (R350, R355): the registers at their reset values, no operation in progress, the boot sequence at its start. -/
def resetAll (s : State) : State := { s with blk := resetBlock s.blk, boot := .reset, task := none }

/-- One step of the agent an arrival names (R11, R46, R51). -/
def applyArrival (a : Arrival) (s : State) : Host.Outcome State Fault Refusal :=
  match a with
  | .mainLoop => mainStep s
  | .handler k => handlerStep k s
  | .rxByte v => .next (s.mapBlk (raiseEvent (.rx v)))
  | .twEvent st data => .next (s.mapBlk (raiseEvent (.tw st data)))
  | .quad ab => .next (s.mapBlk (applyQuad ab))
  | .tick => exec .schTick s
  | .pulseTick ch => exec (.plsTick ch) s
  | .runEn level => .next (s.mapBlk (applyRunEn level))
  | .rst => .next (resetAll s)

/-! ## The script -/

/-- The script with the bytes an instruction leaves of its entry. -/
def scriptRest (fmt : Format) (rest : List Byte) (script : List Input) : List Input :=
  if rest = [] then script else .wire ⟨fmt, rest⟩ :: script

/-- One instruction fetched from the first entry and performed (log 6). -/
def runWire (w : Wire) (script : List Input) (s : State) : Host.Outcome State Fault Refusal :=
  match decode s.blk.cfg w.fmt w.bytes with
  | .ok (i, rest) => exec i { s with script := scriptRest w.fmt rest script }
  | .error _ => .refused .reservedEncoding

/-- One step under an accepted configuration: the first entry of the script, or a free choice of agent. -/
def stepConfigured (s : State) : Host.Outcome State Fault Refusal :=
  match s.script with
  | .wire w :: script => runWire w script s
  | .arrival a :: script => applyArrival a { s with script := script }
  | [] => applyArrival (Config.arrival s.clock) { s with clock := s.clock + 1 }

/-- A table word placed as the first entry of the script, exactly one instruction long where it decodes. -/
def placeWord (s : State) (nbits w : Nat) : State :=
  let x := tableWire s.blk.cfg nbits w
  match decodeWire s.blk.cfg x with
  | some r => { s with script := .wire r.2 :: s.script }
  | none => { s with script := .wire x :: s.script }

end Sys2Proof.Machine
end

