-- ==== Sys2Proof/Machine/Step.lean ====
section
/-!
DEFINITION. The step of the machine, and where the next instruction is fetched from.
-/

namespace Sys2Proof.Machine

/-- One step of one agent (R11). A configuration that R357 refuses has no step. -/
def step (s : State) : Host.Outcome State Fault Refusal :=
  if s.blk.cfg.ok then stepConfigured s else .refused .configuration

/-- The state with a word of the opcode table as its next instruction (log 6). -/
def State.withFetchWord (s : State) (nbits w : Nat) : State := placeWord s nbits w

end Sys2Proof.Machine
end

