-- ==== Sys2Proof/Safety.lean ====
section
/-!
DEFINITION. What a good state of the block is, and what its properties are said with: the invariant that every step keeps
(`10_state.md` rules R22 to R37, `41_framer.md` rule R144), and runs of one agent among others.
-/

namespace Sys2Proof.Machine

/-! ## The invariant -/

/-- The framer's registers (R26, R27, R144 (b)): as many slots as the configuration says, the claimed slot named by `cur` and
no other claimed, the cursor within the slot. -/
def framerOk (b : Block) : Prop :=
  b.frm.slots.length = b.cfg.nSlots
    ∧ (∀ i : Nat, b.frm.slots[i]? = some .claimed ↔ b.frm.cur = some i)
    ∧ b.frm.w ≤ b.cfg.sentenceCap - 2

/-- What holds of the block after every step. -/
structure Block.Inv (b : Block) : Prop where
  /-- the configuration is one R357 accepts -/
  cfg : b.cfg.ok = true
  /-- memory is in its canonical form -/
  mem : Memory.wf b.mem = true
  /-- the guards hold their constants (R22) -/
  prefixGuard : b.record.guardPrefix = b.cfg.guardPrefix
  suffixGuard : b.record.guardSuffix = b.cfg.guardSuffix
  /-- the reserved status bits read as 0 (R23) -/
  status : statusReservedClear b.record.status = true
  /-- phases 10 to 15 are never reached (R24) -/
  phase : b.phase.toNat ≤ 9
  /-- the waypoint index selects a waypoint (R34) -/
  waypoint : b.record.wpIndex.toNat ≤ b.cfg.tableLen
  /-- `enc_valid` is 0 or 1 (R21) -/
  valid : b.record.encValid.toNat ≤ 1
  /-- the counter has `SCHED_BITS` bits (R32) -/
  count : b.sch.count < 2 ^ b.cfg.schedBits
  framer : framerOk b
  /-- an output is high exactly while its counter runs (R258, R260) -/
  steerPulse : b.steer.out = b.steer.run
  throttlePulse : b.throttle.out = b.throttle.run
  /-- the scratch buffers have their lengths (R40) -/
  lead : b.sto.lead.length = 4
  csd : b.sto.csd.length = 16
  /-- nothing is pending while the sources are disabled (R350; that an event raised then is dropped is log 10) -/
  events : b.irq.enabled = false → b.irq.pending = []

/-- Every micro-step that can be made keeps a property of the block, where the numbers on which it depends come from blocks that
had the property, and no condition on the way faults. -/
def Prog.KeepsFrom (P : Block → Prop) : Prog α → Prop
  | .ret _ => True
  | .micro f k => ∀ b, P b → P (f b).1 ∧ (k (f b).2).KeepsFrom P
  | .need why k => (∀ b, P b → ∀ f, why b ≠ some (.fault f)) ∧ k.KeepsFrom P

/-- A good state: a good block, and an operation in progress that has come from good blocks so far. -/
structure State.Inv (s : State) : Prop where
  blk : s.blk.Inv
  task : ∀ which path, s.task = some (.op which path) →
    (remaining s.blk.cfg which path).KeepsFrom fun b => b.Inv ∧ b.cfg = s.blk.cfg

/-- A finished line (R144 (c)): a terminator and a null, and no terminator before. -/
def lineEnded (b : Block) (i : Nat) : Prop :=
  ∃ k, k + 2 ≤ b.cfg.sentenceCap ∧ memRead (slotAddr b.cfg i k) b.mem = terminator
    ∧ memRead (slotAddr b.cfg i (k + 1)) b.mem = 0#8
    ∧ ∀ j, j < k → memRead (slotAddr b.cfg i j) b.mem ≠ terminator

/-- Every `READY` slot holds a finished line, and the claimed slot no terminator yet (R144 (c)). -/
def linesOk (b : Block) : Prop :=
  (∀ i, b.frm.slots[i]? = some .ready → lineEnded b i)
    ∧ ∀ i, b.frm.cur = some i → ∀ j, j < b.frm.w → memRead (slotAddr b.cfg i j) b.mem ≠ terminator

/-! ## The place of the main loop -/

/-- The phase in which an operation of the cycle runs (R24); those of the boot sequence belong to no phase. -/
def phaseOf : LoopOp → Option Nat
  | .frmDrain => some 1
  | .hdgPoll => some 2
  | .encDrain => some 3
  | .estUpdate => some 4
  | .gdeUpdate => some 5
  | .actUpdate => some 6
  | .stoWrite => some 7
  | .schStclr => some 8
  | .actStartup => none
  | .startupPulse _ => none
  | .stoInit => none
  | .hdgBegin => none

/-- The cycle loop has been entered, and an operation in progress is the one of its phase. -/
def inCycle (s : State) : Prop :=
  s.boot = .loop ∧ s.blk.phase.toNat ≤ 9
    ∧ (s.task = none ∨ ∃ which path, s.task = some (.op which path) ∧ phaseOf which = some s.blk.phase.toNat)

/-- The phase after a phase (R24). -/
def nextPhase (p : Nat) : Nat := if p = 9 then 0 else p + 1

/-- In what is left of an operation no micro-step lowers `wp_index`, where the operation alone writes it. -/
def Prog.Climbs (c : Config) : Prog α → Byte → Prop
  | .ret _, _ => True
  | .micro f k, i => ∀ b, b.cfg = c → b.record.wpIndex = i →
      i.toNat ≤ (f b).1.record.wpIndex.toNat ∧ (k (f b).2).Climbs c (f b).1.record.wpIndex
  | .need _ k, i => k.Climbs c i

/-- An operation in progress has read `wp_index` as it stands, so that it does not lower it (R234 (b)). -/
def climbing (s : State) : Prop :=
  ∀ which path, s.task = some (.op which path) →
    (remaining s.blk.cfg which path).Climbs s.blk.cfg s.blk.record.wpIndex

/-! ## Runs -/

/-- The state of an outcome; a stop leaves the state as it was. -/
def outcomeState (s : State) : Host.Outcome State Fault Refusal → State
  | .next t => t
  | _ => s

/-- `n` micro-steps of the operation in progress, no other agent moving. -/
def runTask : Nat → State → State
  | 0, s => s
  | n + 1, s =>
    match s.task with
    | none => s
    | some _ => runTask n (outcomeState s (mainStep s))

/-- One instruction after another, as long as each has a next state. -/
def execAll : List Instr → State → Host.Outcome State Fault Refusal
  | [], s => .next s
  | i :: is, s =>
    match exec i s with
    | .next t => execAll is t
    | .fault e => .fault e
    | .refused r => .refused r

/-- The integer change an edge makes in the count (R207): nothing for an illegal transition. -/
def edgeDelta (c : Config) (qOld qNew : BitVec 2) : U16 :=
  if qNew ^^^ qOld = 0b10#2 then dirA c qNew
  else if qNew ^^^ qOld = 0b01#2 then dirB c qNew
  else 0#16

/-- The encoder among its two agents: the block, the numbers the micro-steps of the drain in progress have yielded (none before
one begins), the sum of the drained deltas and the sum of the legal edges, modulo 2^16. -/
structure EncoderRun where
  blk : Block
  path : List Nat
  drained : U16
  edges : U16

/-- One move: an edge with its sample, or the next micro-step of a drain. A drain that ends adds `enc_ticks` to the sum. -/
def EncoderRun.move (m : Option (BitVec 2)) (r : EncoderRun) : EncoderRun :=
  match m with
  | some q => { r with blk := edgeDecode q r.blk, edges := r.edges + edgeDelta r.blk.cfg r.blk.enc.qPrev q }
  | none =>
    match (encDrainProg.follow r.path).first r.blk with
    | none => r
    | some x =>
      if (encDrainProg.follow (r.path ++ [x.2])).isDone then
        { r with blk := x.1, path := [], drained := r.drained + x.1.record.encTicks }
      else { r with blk := x.1, path := r.path ++ [x.2] }

/-- Moves in order. -/
def EncoderRun.run : List (Option (BitVec 2)) → EncoderRun → EncoderRun
  | [], r => r
  | m :: ms, r => EncoderRun.run ms (r.move m)

/-- The drained deltas, the active cell's count and, once the cells are swapped, the count still to be delivered add up to the
legal edges; and the drain in progress has read the cells as they are: before the swap (five micro-steps) the inactive cell's
bytes are cleared one after the other, after it the swapped-out count is read and written to `enc_ticks` byte by byte (R212). -/
def EncoderRun.balanced (r : EncoderRun) : Prop :=
  (fun now out : U16 =>
    (r.path.length < 5 → r.drained + now = r.edges
      ∧ (∀ a, r.path[0]? = some a → cellIndex a = r.blk.enc.active)
      ∧ (2 ≤ r.path.length → byteOf out 0 = 0#8) ∧ (3 ≤ r.path.length → out = 0#16))
    ∧ (5 ≤ r.path.length → r.drained + now + out = r.edges
      ∧ (∀ a, r.path[0]? = some a → cellIndex a = otherCell r.blk.enc.active)
      ∧ (∀ v, r.path[5]? = some v → v = (byteOf out 0).toNat) ∧ (∀ v, r.path[6]? = some v → v = (byteOf out 1).toNat)
      ∧ (8 ≤ r.path.length → byteOf r.blk.record.encTicks 0 = byteOf out 0)
      ∧ (9 ≤ r.path.length → r.blk.record.encTicks = out)))
  (getCell r.blk.enc.active r.blk.enc).count (getCell (otherCell r.blk.enc.active) r.blk.enc).count

/-! ## What a drain delivers -/

/-- The fields an accepted fix-quality sentence writes (R164). -/
def ggaRecord (c : Config) (line : List Byte) (r : SharedRecord) : SharedRecord :=
  { r with
    gpsLat := ggaLat line, gpsLon := ggaLon line
    gpsHdop := dec (field line 8), gpsAlt := dec (field line 9)
    gpsX := projectX c (ggaLon line), gpsY := projectY c (ggaLat line)
    status := r.status ||| statusBit stGga }

/-- The fields an accepted course/speed/date sentence writes (R97, R168). -/
def rmcRecord (line : List Byte) (r : SharedRecord) : SharedRecord :=
  { r with
    gpsSpeed := dec (field line 7), gpsCourse := dec (field line 8)
    gpsDate := decInt (field line 9), gpsMagvar := rmcMagvar line
    status := r.status ||| statusBit stRmc }

/-- The record after a line is parsed (R162, R164, R168). -/
def parsedRecord (c : Config) (line : List Byte) (r : SharedRecord) : SharedRecord :=
  if line.take 6 = typeGga then (if ggaAccepted c line then ggaRecord c line r else r)
  else if line.take 6 = c.typeRmc then (if rmcAccepted c line then rmcRecord line r else r)
  else r

/-- The record after slot `i` of a block is drained (R143): a `READY` line parsed when its checksum is valid, else the
checksum bit. -/
def drainedRecord (b : Block) (r : SharedRecord) (i : Nat) : SharedRecord :=
  if b.frm.slots[i]? = some .ready then
    if checksumOk (slotText b i) then parsedRecord b.cfg (slotText b i) r
    else { r with status := r.status ||| statusBit stChkfail }
  else r

/-- The status word with the latches moved into it (R142). -/
def latchedStatus (f : Framer) (status : U32) : U32 :=
  orStatusIf f.overflow stOverflow (orStatusIf f.restart stRestart (orStatusIf f.nobuf stNobuf status))

/-! ## Names for groups of instructions -/

/-- The arm a transition code names (R101). -/
def encArm (code : BitVec 2) : Instr :=
  if code = 0b00#2 then .encEdgeNochg
  else if code = 0b01#2 then .encEdgeB
  else if code = 0b10#2 then .encEdgeA
  else .encEdgeBoth

/-- The state a two-wire event class is expected in (R187). -/
def hdgExpects (h : Heading) : TwClass → Bool
  | .start => h.state == .idle && h.busy
  | .slawAck => h.state == .addressedForWrite
  | .txdataAck => h.state == .registerSent
  | .repStart => h.state == .repeatStart
  | .slarAck => h.state == .addressedForRead
  | .rxdataAck => h.state == .addressedForRead
  | .rxdataNack => h.state == .highByteReceived
  | .other => false

/-- The operation a drive command dispatches to (R246, R262). -/
def driveInstr : DriveCmd → Instr
  | .stop => .actStop
  | .fwd k => .actFwd (BitVec.ofNat 8 k)
  | .rev k => .actRev (BitVec.ofNat 8 k)

/-- The sources of the events (R330). -/
inductive Source where
  | rx
  | tw
  | qe
  | cm (ch : Channel)
  | ovf
  deriving DecidableEq, Repr

/-- The source an event comes from. -/
def sourceOf : Event → Source
  | .rx _ => .rx
  | .tw _ _ => .tw
  | .qe => .qe
  | .cm ch => .cm ch
  | .ovf => .ovf

/-- The operations of the storage logger (R275). -/
def storageInstrs (cmd : BitVec 6) (arg : U32) (trail : Byte) : List Instr :=
  [.stoCmd cmd arg trail, .stoCmdReset, .stoCmdIfcond, .stoCmdApp, .stoCmdOpcond, .stoCmdReadocr, .stoCmdReadcsd,
    .stoCmdReadblk arg, .stoCmdWriteblk arg, .stoInit, .stoFind, .stoReadblk arg, .stoWrite]

/-- The instruction that an operation with micro-steps is; the later pulses of `ACT.STARTUP` are part of one. -/
def loopInstr : LoopOp → Option Instr
  | .frmDrain => some .frmDrain
  | .hdgPoll => some .hdgPoll
  | .encDrain => some .encDrain
  | .estUpdate => some .estUpdate
  | .gdeUpdate => some .gdeUpdate
  | .actUpdate => some .actUpdate
  | .stoWrite => some .stoWrite
  | .schStclr => some .schStclr
  | .actStartup => some .actStartup
  | .startupPulse _ => none
  | .stoInit => some .stoInit
  | .hdgBegin => some .hdgBegin

/-- Neither an infinity nor a NaN (R12). -/
def f32Finite (x : F32) : Prop := f32Exp x ≠ 255

/-- `us` is `to_u16(f32(STEER_CENTER_US) + a * STEER_US_PER_RAD)` (R255): the integer nearest to the binary32 sum, in its units of
2^-149, and the even one at a tie. -/
def steerImage (c : Config) (a : F32) (us : U16) : Prop :=
  (fun v : F32 => f32Finite v ∧ 2 * ((us.toNat : Int) * 2 ^ 149 - f32Units v).natAbs ≤ 2 ^ 149
      ∧ (2 * ((us.toNat : Int) * 2 ^ 149 - f32Units v).natAbs = 2 ^ 149 → us.getLsbD 0 = false))
    (f32Add (f32OfInt c.steerCenterUs.toNat) (f32Mul a c.steerUsPerRad))

/-- A decimal digit (R160). -/
def decimalDigit (d : Byte) : Prop := 0x30#8 ≤ d ∧ d ≤ 0x39#8

/-- The number that digits name, the first one the most significant. -/
def numberOf (ds : List Byte) : Nat := Nat.ofDigits 10 (ds.reverse.map fun d => d.toNat - 48)

/-- The parts of a decimal field (R160): a sign or none, the digits before the point, the point or none, the digits after it, and
bytes that do not belong to the number. -/
def decimalText (sign whole : List Byte) (point : Bool) (frac rest : List Byte) : Prop :=
  (sign = [] ∨ sign = [0x2B#8] ∨ sign = [0x2D#8]) ∧ (∀ d ∈ whole ++ frac, decimalDigit d)
    ∧ (point = false → frac = [] ∧ rest.head? ≠ some 0x2E#8) ∧ (∀ d, rest.head? = some d → ¬decimalDigit d)
    ∧ (sign = [] → whole = [] → point = false → rest.head? ≠ some 0x2B#8 ∧ rest.head? ≠ some 0x2D#8)

/-- The answer bytes of a device to a command: six during the frame, `polls` of "no answer yet" fewer than the ceiling, then
the answer and what follows (R278). -/
def answers (c : Config) (frame polls : List Byte) (r : Byte) : Prop :=
  frame.length = 6 ∧ (∀ p ∈ polls, p.msb = true) ∧ polls.length < c.respRetryMax ∧ r.msb = false

/-- The bytes of a data block: `gaps` of filler fewer than the ceiling, then the token (R288). -/
def dataBlock (c : Config) (gaps : List Byte) : Prop :=
  (∀ g ∈ gaps, g = c.answers.filler) ∧ gaps.length < c.tokenRetryMax ∧ c.answers.dataToken ≠ c.answers.filler

/-! ### What a scripted device answers in a whole operation -/

/-- The answer bytes of a command whose result is `r`: those of `answers`, or polls without an answer up to the ceiling (R278). -/
def reply (c : Config) : Option Byte → List Byte → Prop
  | some r, bs => ∃ frame polls, answers c frame polls r ∧ bs = frame ++ polls ++ [r]
  | none, bs => ∃ frame late, frame.length = 6 ∧ late.length = c.respRetryMax ∧ (∀ p ∈ late, p.msb = true) ∧ bs = frame ++ late

/-- The answer bytes of a block read that delivers `data` (R288, R290). -/
def blockReply (c : Config) (data bs : List Byte) : Prop :=
  ∃ a gaps tail, reply c (some c.answers.ready) a ∧ dataBlock c gaps ∧ tail.length = 2
    ∧ bs = a ++ gaps ++ [c.answers.dataToken] ++ data ++ tail

/-- The answer bytes of a block read that fails: another answer than "ready" or none, another token, or no token in time (R285,
R288, R290). -/
def blockRefusal (c : Config) (bs : List Byte) : Prop :=
  (∃ r, r ≠ some c.answers.ready ∧ reply c r bs)
  ∨ ∃ a gaps, reply c (some c.answers.ready) a ∧ (∀ g ∈ gaps, g = c.answers.filler)
    ∧ ((∃ token, gaps.length < c.tokenRetryMax ∧ token ≠ c.answers.filler ∧ token ≠ c.answers.dataToken ∧ bs = a ++ gaps ++ [token])
      ∨ (gaps.length = c.tokenRetryMax ∧ c.answers.dataToken ≠ c.answers.filler ∧ bs = a ++ gaps))

/-- `hi - lo` in the loop of R292 after midpoints whose blocks begin as in `datas`. -/
def searchWidth (c : Config) (cap : Nat) (datas : List (List Byte)) : Nat :=
  (fun r : Nat × Nat => r.2 - r.1) <| datas.foldl (init := (0, cap)) fun r d =>
    if d.take 4 = guardImage c then (r.1 + (r.2 - r.1) / 2, r.2) else (r.1, r.1 + (r.2 - r.1) / 2)

/-- The answer bytes of a search in which some read fails: the first one, or, after block 0 was found used, one that the loop of
R292 still makes. -/
def searchRefusal (c : Config) (cap : Nat) (bs : List Byte) : Prop :=
  ∃ (datas good : List (List Byte)) (bad : List Byte), List.Forall₂ (blockReply c) datas good ∧ (∀ d ∈ datas, d.length = c.blockSize)
    ∧ blockRefusal c bad ∧ bs = good.flatten ++ bad
    ∧ ∀ d ds, datas = d :: ds → d.take 4 = guardImage c ∧ 1 < searchWidth c cap ds

/-- The steps of `STO.INIT` that wait for the device (R289). -/
inductive InitStep where
  | reset
  | ifcond
  | opcond
  | readocr
  | readcsd
  | find
  deriving DecidableEq, Repr

/-- Their order (R289). -/
def initSteps : List InitStep := [.reset, .ifcond, .opcond, .readocr, .readcsd, .find]

/-- One round of step 3: the prefix command is answered, and the answer to the second command is `r` (R281, R282). -/
def opcondRound (c : Config) (r : Option Byte) (bs : List Byte) : Prop :=
  ∃ a p q, (a = c.answers.idle ∨ a = c.answers.ready) ∧ reply c (some a) p ∧ reply c r q ∧ bs = p ++ q

/-- The capacity in blocks that a register value gives (R106). -/
def csdCapacity (csd : List Byte) : Nat :=
  ((csd.getD 7 0#8).toNat % 64 * 65536 + (csd.getD 8 0#8).toNat * 256 + (csd.getD 9 0#8).toNat + 1) * 512

/-- The answer bytes with which a step passes and the next one begins, with the register `csd` delivered (R279 to R285). No step comes
after the search. -/
def stepPasses (c : Config) (csd : List Byte) : InitStep → List Byte → Prop
  | .reset, bs => reply c (some c.answers.idle) bs
  | .ifcond, bs => ∃ a e, reply c (some c.answers.idle) a ∧ e.length = 4 ∧ e.getD 2 0#8 = 0x01#8 ∧ e.getD 3 0#8 = 0xAA#8 ∧ bs = a ++ e
  | .opcond, bs => ∃ (rounds : List (List Byte)) (last : List Byte), rounds.length < c.opcondRetryMax
      ∧ (∀ r ∈ rounds, opcondRound c (some c.answers.idle) r) ∧ opcondRound c (some c.answers.ready) last ∧ bs = rounds.flatten ++ last
  | .readocr, bs => ∃ a o, reply c (some c.answers.ready) a ∧ o.length = 4 ∧ (o.getD 0 0#8).getLsbD 6 = true ∧ bs = a ++ o
  | .readcsd, bs => csd.length = 16 ∧ blockReply c csd bs
  | .find, _ => False

/-- The answer bytes with which a step fails: an answer it does not expect or none, a wrong echo (R280), more rounds than
`OPCOND_RETRY_MAX`, a device that is not block-addressed (R284), a block read that fails (R285, R292). -/
def stepFails (c : Config) (csd : List Byte) : InitStep → List Byte → Prop
  | .reset, bs => ∃ r, r ≠ some c.answers.idle ∧ reply c r bs
  | .ifcond, bs => (∃ r, r ≠ some c.answers.idle ∧ reply c r bs)
      ∨ ∃ a e, reply c (some c.answers.idle) a ∧ e.length = 4 ∧ ¬(e.getD 2 0#8 = 0x01#8 ∧ e.getD 3 0#8 = 0xAA#8) ∧ bs = a ++ e
  | .opcond, bs => ∃ (rounds : List (List Byte)) (last : List Byte), (∀ r ∈ rounds, opcondRound c (some c.answers.idle) r)
      ∧ bs = rounds.flatten ++ last
      ∧ ((rounds.length = c.opcondRetryMax ∧ last = [])
        ∨ (rounds.length < c.opcondRetryMax
          ∧ ∃ r, r ≠ some c.answers.idle ∧ r ≠ some c.answers.ready ∧ (reply c r last ∨ opcondRound c r last)))
  | .readocr, bs => (∃ r, r ≠ some c.answers.ready ∧ reply c r bs)
      ∨ ∃ a o, reply c (some c.answers.ready) a ∧ o.length = 4 ∧ (o.getD 0 0#8).getLsbD 6 = false ∧ bs = a ++ o
  | .readcsd, bs => blockRefusal c bs
  | .find, bs => searchRefusal c (csdCapacity csd) bs

/-- The answer bytes of a write that the device does not take: another answer than "ready" or none, a data response that is not
"data accepted" (R296), or a device busy up to the ceiling (R298). -/
def writeRefusal (c : Config) (bs : List Byte) : Prop :=
  (∃ r, r ≠ some c.answers.ready ∧ reply c r bs)
  ∨ ∃ (a echo : List Byte) (resp : Byte), reply c (some c.answers.ready) a ∧ echo.length = c.blockSize + 3
    ∧ ((resp &&& c.answers.respMask ≠ c.answers.respAccepted ∧ bs = a ++ echo ++ [resp])
      ∨ (resp &&& c.answers.respMask = c.answers.respAccepted ∧ c.busyIgnored = false
        ∧ bs = a ++ echo ++ [resp] ++ List.replicate c.busyRetryMax c.answers.busy))

/-- A reference device with no frame open, nothing to answer and no write in progress. -/
def quiet (d : RefDevice) : Prop := d.queue = [] ∧ d.frame = [] ∧ d.recv = .off

end Sys2Proof.Machine
end

