-- ==== Sys2Proof/Certificates/Slice0/Obligations.lean ====
section
/-!
DEFINITION. The statements about the model. Each cites the rules of the specification it formalises; a clause that rests on a
choice of the model names the log entry.
-/

open Sys2Proof Sys2Proof.Machine

/-! ## Encodings -/

/-- The decoder of its format gives a well-formed instruction back from its encoding, with the bytes after it left over. -/
def Obligations.DecodeInvertsEncode : Prop :=
  ∀ (c : Config) (i : Instr) (rest : List Byte), c.ok = true → i.wellFormed c = true →
    decode c (encode c i).fmt ((encode c i).bytes ++ rest) = .ok (i, rest)

/-- Whatever a decoder accepts is the encoding of what it answers, followed by what it leaves over. -/
def Obligations.EncodeInvertsDecode : Prop :=
  ∀ (c : Config) (fmt : Format) (bs : List Byte) (i : Instr) (rest : List Byte), c.ok = true →
    decode c fmt bs = .ok (i, rest) → (encode c i).fmt = fmt ∧ (encode c i).bytes ++ rest = bs

/-- Words written out from the encoding rules, one or two of a format, and what they decode to (R90, R99, R101, R103, R108),
under the configuration of log 1. -/
def Obligations.DecodeSampleWords : Prop :=
  decode standardConfig .op8 [0x02#8] = .ok (.schTick, [])
    ∧ decode standardConfig .op8 [0x10#8, 0x24#8] = .ok (.frmRx 0x24#8, [])
    ∧ decode standardConfig .op8 [0x31#8, 0x50#8, 0x0A#8] = .ok (.hdgEvt 0x50#8 0x0A#8, [])
    ∧ decode standardConfig .op8 [0x83#8, 0x00#8, 0x00#8, 0x01#8, 0x02#8] = .ok (.stoReadblk 258#32, [])
    ∧ decode standardConfig .op8 [0x73#8, 0x00#8, 0x00#8, 0x80#8, 0x3E#8] = .ok (.actSteer 0x3E800000#32, [])
    ∧ decode standardConfig .op8 [0x91#8, 0x01#8] = .ok (.plsMatch .throttle, [])
    ∧ decode standardConfig .rxByte [0x24#8] = .ok (.frmRxStart, [])
    ∧ decode standardConfig .rxByte [0x0D#8] = .ok (.frmRxData 0x0D#8, [])
    ∧ decode standardConfig .twEvt [0x1B#8, 0x00#8] = .ok (.hdgEvtSlawAck 0x1B#8 0x00#8, [])
    ∧ decode standardConfig .qCode [0x02#8] = .ok (.encEdgeA, [])
    ∧ decode standardConfig .cmd48 [0x51#8, 0x00#8, 0x00#8, 0x01#8, 0x00#8, 0x00#8] = .ok (.stoCmdReadblk 256#32, [])

/-- Codes with a unit nibble of 10 to 15, and codes of a unit beyond its last function, name no operation; a step that fetches
one is refused (R109; the refusal's name is the model's, log 19). -/
def Obligations.ReservedCodesRefused : Prop :=
  ∀ (s : State) (code : Byte) (bs : List Byte) (script : List Input), s.blk.cfg.ok = true →
    code.toNat ∉ [0x00, 0x01, 0x02, 0x03, 0x04, 0x10, 0x11, 0x20, 0x21, 0x22, 0x23, 0x30, 0x31, 0x32, 0x40, 0x41, 0x50,
      0x60, 0x61, 0x62, 0x63, 0x70, 0x71, 0x72, 0x73, 0x74, 0x75, 0x80, 0x81, 0x82, 0x83, 0x84, 0x90, 0x91, 0x92] →
    s.script = .wire ⟨.op8, code :: bs⟩ :: script →
    decode s.blk.cfg .op8 (code :: bs) = .error .reservedCode ∧ step s = .refused .reservedEncoding

/-! ## The step, the main loop, the handlers -/

/-- A step whose script begins with an encoded instruction is that instruction's meaning, at the state whose script has lost
the instruction's bytes (log 6). -/
def Obligations.StepRunsDecodedInstruction : Prop :=
  ∀ (s : State) (w : Wire) (script : List Input) (i : Instr) (rest : List Byte), s.blk.cfg.ok = true →
    s.script = .wire w :: script → decode s.blk.cfg w.fmt w.bytes = .ok (i, rest) →
    step s = exec i { s with script := if rest = [] then script else .wire ⟨w.fmt, rest⟩ :: script }

/-- The handler step of a pending event is its source's operation with the operands of the event or the ports (R330; the inputs
are read when the handler runs, log 9), and it leaves the main loop where it was (R333, R334). -/
def Obligations.HandlerStepRunsItsOperation : Prop :=
  ∀ (s : State) (k : Nat) (e : Event) (script : List Input), s.blk.cfg.ok = true →
    s.script = .arrival (.handler k) :: script → s.blk.irq.pending[k]? = some e →
    step s = exec (match e with
        | .rx v => .frmRx v
        | .tw st data => .hdgEvt st data
        | .qe => .encEdge (BitVec.ofBool s.blk.env.qa ++ BitVec.ofBool s.blk.env.qb)
        | .cm ch => .plsMatch ch
        | .ovf => .schOvf) { s with script := script }
      ∧ ∀ t, step s = .next t → t.task = s.task ∧ t.boot = s.boot ∧ t.blk.phase = s.blk.phase ∧ t.blk.record = s.blk.record

/-- Pending events of different sources may be handled in either order with the same result (R332). -/
def Obligations.HandlersCommute : Prop :=
  ∀ (s t₁ t₂ : State) (e₁ e₂ : Event), sourceOf e₁ ≠ sourceOf e₂ →
    exec (handlerOf e₁ s.blk) s = .next t₁ → exec (handlerOf e₂ s.blk) s = .next t₂ →
    ∃ u, exec (handlerOf e₂ t₁.blk) t₁ = .next u ∧ exec (handlerOf e₁ t₂.blk) t₂ = .next u

/-- An operation of the main loop that runs micro-step by micro-step, with no other agent between, ends where the whole
operation does, with the wait of `ACT.STARTUP` as the next thing to do where there is one (R11, R67, R71). The grain of the
micro-steps beyond R67's words is log 8. -/
def Obligations.MicroStepsMakeTheOperation : Prop :=
  ∀ (s t : State) (which : LoopOp) (i : Instr), loopInstr which = some i → exec i s = .next t →
    ∃ n, runTask n (advance which [] s) = { t with task := nextTask s.blk.cfg which }

/-- The main loop reaches a register wider than a byte one byte at a time (R67): after `k` micro-steps of a write the next one
writes byte `k` alone, after `k` of a read the next one reads byte `k`, and the read ends with the value when nothing was
written meanwhile. The order of the bytes is the model's (log 8). -/
def Obligations.WideAccessesAreSingleBytes : Prop :=
  ∀ (w : Nat) (r : Reg w) (v : BitVec w) (b : Block) (k : Nat), k < (w + 7) / 8 →
    (∃ x, ((writeReg r v).follow (List.replicate k 0)).first b = some (r.set x b, 0)
      ∧ byteOf x k = byteOf v k ∧ ∀ j, j ≠ k → byteOf x j = byteOf (r.get b) j)
    ∧ ((writeReg r v).follow (List.replicate ((w + 7) / 8) 0)).isDone = true
    ∧ ((readReg r).follow ((List.range k).map fun j => (byteOf (r.get b) j).toNat)).first b = some (b, (byteOf (r.get b) k).toNat)
    ∧ (readReg r).follow ((List.range ((w + 7) / 8)).map fun j => (byteOf (r.get b) j).toNat) = .ret (r.get b)

/-- The boot sequence in its order: reset values, the sample of the inputs, the six sources, the start-up pulses, the storage,
the heading reading, phase 0 (R351). A driver that a spurious bus event has moved meanwhile is outside the contract of
`HDG.BEGIN` (R200, log 18). -/
def Obligations.BootSequenceInOrder : Prop :=
  ∀ s : State, s.task = none →
    (s.boot = .reset → mainStep s = .next { s with blk := Block.reset s.blk.cfg s.blk.env s.blk.fresh, boot := .sample })
    ∧ (s.boot = .sample → mainStep s = .next { s.mapBlk (fun b =>
        { b with enc := { b.enc with qPrev := BitVec.ofBool b.env.qa ++ BitVec.ofBool b.env.qb } }) with boot := .enable })
    ∧ (s.boot = .enable → mainStep s = .next { s.mapBlk (fun b =>
        { b with irq := { b.irq with enabled := true } }) with boot := .startup })
    ∧ (s.boot = .startup → ∃ t n, exec .actStartup s = .next t
        ∧ mainStep s = .next { advance .actStartup [] s with boot := .init }
        ∧ runTask n { advance .actStartup [] s with boot := .init } = { t with boot := .init })
    ∧ (s.boot = .init → ∃ t n, exec .stoInit s = .next t ∧ mainStep s = .next { advance .stoInit [] s with boot := .begin }
        ∧ runTask n { advance .stoInit [] s with boot := .begin } = { t with boot := .begin, task := none })
    ∧ (s.boot = .begin → s.blk.hdg.state = .idle → s.blk.hdg.busy = false →
        ∃ t n, exec .hdgBegin s = .next t ∧ mainStep s = .next { advance .hdgBegin [] s with boot := .enter }
        ∧ runTask n { advance .hdgBegin [] s with boot := .enter } = { t with boot := .enter, task := none })
    ∧ (s.boot = .begin → s.blk.hdg.state ≠ .idle ∨ s.blk.hdg.busy = true → mainStep s = .refused .headingContract)
    ∧ (s.boot = .enter → mainStep s = .next { s.mapBlk (fun b => { b with phase := 0#4 }) with boot := .loop })

/-- In the cycle loop no step but `rst` leaves the order of the phases: the phase stays or becomes the next one, and only the
main loop moves it (R24, R125, R129). -/
def Obligations.CyclePhasesInOrder : Prop :=
  ∀ (s t : State) (a : Arrival), inCycle s → applyArrival a s = .next t → a ≠ .rst →
    inCycle t
      ∧ (t.blk.phase = s.blk.phase ∨ (a = .mainLoop ∧ t.blk.phase.toNat = nextPhase s.blk.phase.toNat))

/-- The table of reset values (R50), and `rst` at any step: that state, no operation in progress, the boot sequence at its
start, the surroundings kept (R350, R355). The values of `w`, `lead` and `csd` are not stated. That `rst` is one move which keeps
the script, the histories of the buses and the counter of free values is the model's choice (log 30). -/
def Obligations.ResetValues : Prop :=
  (∀ (c : Config) (e : Environment) (fresh : Nat), (fun b : Block =>
    b.record = { guardPrefix := c.guardPrefix, cycle := 0#32, status := 0#32, gpsLat := 0#32, gpsLon := 0#32
                 gpsHdop := 0#32, gpsAlt := 0#32, gpsX := 0#32, gpsY := 0#32, gpsSpeed := 0#32, gpsCourse := 0#32
                 gpsDate := 0#32, gpsMagvar := 0#32, hdgRaw := 0#16, hdgDeg := 0#32, hdgRad := 0#32, encTicks := 0#16
                 encValid := 0#8, estX := 0#32, estY := 0#32, estHeading := 0#32, wpIndex := 0#8, wpAngle := 0#32
                 steerUs := c.steerCenterUs, throttleUs := c.neutralUs, guardSuffix := c.guardSuffix }
    ∧ (∀ a, memRead a b.mem = 0#8) ∧ b.phase = 0#4
    ∧ b.frm.slots = List.replicate c.nSlots .free ∧ b.frm.cur = none
    ∧ b.frm.nobuf = false ∧ b.frm.restart = false ∧ b.frm.overflow = false
    ∧ b.hdg = { state := .idle, busy := false, hi := 0#8, lo := 0#8, value := 0#16 }
    ∧ b.enc = { cell0 := ⟨false, 0#16⟩, cell1 := ⟨false, 0#16⟩, active := 0, qPrev := BitVec.ofBool e.qa ++ BitVec.ofBool e.qb }
    ∧ b.sch = { count := 0, overrun := false } ∧ b.act = { drive := .neutral, hold := 0#8 }
    ∧ b.steer = { out := false, ocr := 0#16, cnt := 0#16, run := false }
    ∧ b.throttle = { out := false, ocr := 0#16, cnt := 0#16, run := false }
    ∧ b.sto.nextBlock = 0#32 ∧ b.sto.capacityBlocks = 0#32 ∧ b.sto.enabled = false
    ∧ b.sto.cs = false ∧ b.sto.fast = false
    ∧ b.irq = { enabled := false, pending := [] }) (Block.reset c e fresh))
  ∧ ∀ (s : State) (script : List Input), s.blk.cfg.ok = true → s.script = .arrival .rst :: script →
      step s = .next { s with blk := Block.reset s.blk.cfg s.blk.env s.blk.fresh, boot := .reset, task := none, script := script }

/-- The moves of the environment (R330, R331, R356): a received byte and a two-wire completion become pending with their data, a
change of the quadrature inputs raises `QE` and no change raises nothing, `run_en` takes its level and raises nothing, and the
two ticks are their operations. That nothing is raised while the sources are disabled is the model's reading (log 10). -/
def Obligations.EnvironmentMoves : Prop :=
  ∀ (s : State) (script : List Input) (v st data : Byte) (ab : BitVec 2) (ch : Channel) (level : Bool), s.blk.cfg.ok = true →
    (fun (move : Arrival → (Block → Block) → Prop) =>
      (s.blk.irq.enabled = true →
        move (.rxByte v) (fun b => { b with irq := { b.irq with pending := b.irq.pending ++ [.rx v] } })
        ∧ move (.twEvent st data) (fun b => { b with irq := { b.irq with pending := b.irq.pending ++ [.tw st data] } })
        ∧ (ab ≠ BitVec.ofBool s.blk.env.qa ++ BitVec.ofBool s.blk.env.qb → move (.quad ab) (fun b =>
            { b with env := { b.env with qa := ab.getLsbD 1, qb := ab.getLsbD 0 }
                     irq := { b.irq with pending := b.irq.pending ++ [.qe] } })))
      ∧ (s.blk.irq.enabled = false →
        move (.rxByte v) id ∧ move (.twEvent st data) id
        ∧ move (.quad ab) (fun b => { b with env := { b.env with qa := ab.getLsbD 1, qb := ab.getLsbD 0 } }))
      ∧ (ab = BitVec.ofBool s.blk.env.qa ++ BitVec.ofBool s.blk.env.qb → move (.quad ab) id)
      ∧ move (.runEn level) (fun b => { b with env := { b.env with runEn := level } })
      ∧ (s.script = .arrival .tick :: script → step s = exec .schTick { s with script := script })
      ∧ (s.script = .arrival (.pulseTick ch) :: script → step s = exec (.plsTick ch) { s with script := script }))
    fun a f => s.script = .arrival a :: script → step s = .next { s.mapBlk f with script := script }

/-! ## Invariants -/

/-- The invariant holds right after reset, under the configuration of log 1. -/
def Obligations.InvHoldsAtReset : Prop := State.reset.Inv

/-- The invariant is kept by every step, from every state: the block's own clauses, and that an operation in progress has come
from good blocks. The clause `events` (R331, R350: the sources are disabled with nothing pending) is kept because the model drops an
event raised while they are disabled, which is its own reading (log 10). -/
def Obligations.InvKeptByEveryStep : Prop :=
  ∀ s t : State, s.Inv → step s = .next t → t.Inv

/-- No step from a good state faults: no store leaves its slot, no index leaves the table, no phase is reserved (R130, R144 (f),
R231, R24). -/
def Obligations.NoFaultFromGoodState : Prop :=
  ∀ (s : State) (f : Fault), s.Inv → step s ≠ .fault f

/-- Every `READY` slot keeps a finished line: one terminator, a null after it, no terminator before (R144 (c)). -/
def Obligations.ReadyLinesStayFinished : Prop :=
  ∀ s t : State, s.Inv → linesOk s.blk → step s = .next t → linesOk t.blk

/-- Every instruction keeps the agreement of drive state and width (R247), and the range of the hold counter. Within an operation
that other agents interrupt, width and state are written one after the other. -/
def Obligations.DriveStateMatchesWidth : Prop :=
  ∀ (s t : State) (i : Instr), s.Inv → exec i s = .next t →
    (fun ok : Block → Prop => ok s.blk → ok t.blk) fun b =>
      (b.act.drive = .forward → b.cfg.neutralUs.toNat ≤ b.record.throttleUs.toNat)
      ∧ (b.act.drive = .neutral → b.record.throttleUs = b.cfg.neutralUs)
      ∧ (b.act.drive = .preReverse → b.record.throttleUs = b.cfg.preReverseUs ∧ b.act.hold.toNat < b.cfg.preReverseHold)
      ∧ b.act.hold.toNat ≤ b.cfg.preReverseHold

/-- `wp_index` never decreases but by `rst` and the reset values it brings (R34, R234 (b)): neither in a step of any agent, the
operation in progress having read the index as it stands, nor by an instruction as a whole. -/
def Obligations.WaypointIndexNeverDecreases : Prop :=
  (∀ (s t : State) (a : Arrival), s.Inv → climbing s → applyArrival a s = .next t → a ≠ .rst → (a = .mainLoop → s.boot ≠ .reset) →
    climbing t ∧ s.blk.record.wpIndex.toNat ≤ t.blk.record.wpIndex.toNat)
  ∧ ∀ (s t : State) (i : Instr), s.Inv → exec i s = .next t →
    s.blk.record.wpIndex.toNat ≤ t.blk.record.wpIndex.toNat

/-! ## Numbers -/

/-- The four operations on finite values (R12): the result is finite exactly when the exact result is below the last rounding
boundary, 2^128 - 2^103, else the infinity of its sign; a finite result is a binary32 value nearest to the exact one, and the even
one of two that are equally near. Values are integers in units of 2^-149. Division by zero is the infinity of its sign, but for
a zero dividend. -/
def Obligations.ArithmeticRoundsToNearestEven : Prop :=
  ∀ a b x : F32, f32Finite a → f32Finite b → f32Finite x →
    (fun (correct : F32 → Int → Nat → Prop) =>
      correct (f32Add a b) (f32Units a + f32Units b) 1
      ∧ correct (f32Sub a b) (f32Units a - f32Units b) 1
      ∧ correct (f32Mul a b) (f32Units a * f32Units b) (2 ^ 149)
      ∧ (f32Units b ≠ 0 →
          correct (f32Div a b) ((if f32Units b < 0 then -f32Units a else f32Units a) * 2 ^ 149) (f32Units b).natAbs)
      ∧ (f32Units b = 0 → f32Units a ≠ 0 →
          f32Div a b = if f32Sign a = f32Sign b then 0x7F800000#32 else 0xFF800000#32)
      ∧ (f32Units b = 0 → f32Units a = 0 → f32IsNan (f32Div a b) = true))
    fun r num den =>
      (num.natAbs < (2 ^ 25 - 1) * 2 ^ 252 * den → f32Finite r
        ∧ (num - f32Units r * den).natAbs ≤ (num - f32Units x * den).natAbs
        ∧ ((num - f32Units r * den).natAbs = (num - f32Units x * den).natAbs → f32Units x ≠ f32Units r → r.getLsbD 0 = false))
      ∧ ((2 ^ 25 - 1) * 2 ^ 252 * den ≤ num.natAbs → r = if num < 0 then 0xFF800000#32 else 0x7F800000#32)

/-! ## Scheduler -/

/-- `SCH.BEGIN` (R121); with `run_en` at 0 nothing happens (R127; that the gate stands in the operation is the model's, log 33). -/
def Obligations.SchBeginStartsCycle : Prop :=
  ∀ s : State,
    (s.blk.env.runEn = true → exec .schBegin s = .next (s.mapBlk fun b =>
      { b with sch := { count := 0, overrun := false }, record := { b.record with cycle := b.record.cycle + 1#32 }, phase := 1#4
               irq := { b.irq with pending := b.irq.pending.filter (· ≠ .ovf) } }))
    ∧ (s.blk.env.runEn = false → exec .schBegin s = .next s)

/-- One iteration of `SCH.WAIT` (R124). -/
def Obligations.SchWaitEndsCycle : Prop :=
  ∀ s : State,
    (s.blk.sch.overrun = true → exec .schWait s = .next (s.mapBlk fun b =>
      { b with record := { b.record with status := b.record.status ||| 0x100#32 }, phase := 0#4 }))
    ∧ (s.blk.sch.overrun = false → s.blk.cfg.cycleTicks ≤ s.blk.sch.count →
        exec .schWait s = .next (s.mapBlk fun b => { b with phase := 0#4 }))
    ∧ (s.blk.sch.overrun = false → s.blk.sch.count < s.blk.cfg.cycleTicks → exec .schWait s = .next s)

/-- `SCH.TICK` (R122), `SCH.OVF` (R123), which consumes one pending event (R331, log 11), and `SCH.STCLR` (R126). That a wrap
raises nothing while the sources are disabled is the model's reading (log 10). -/
def Obligations.SchTickOvfStclr : Prop :=
  ∀ s : State,
    (s.blk.sch.count ≠ 2 ^ s.blk.cfg.schedBits - 1 → exec .schTick s = .next (s.mapBlk fun b =>
      { b with sch := { b.sch with count := b.sch.count + 1 } }))
    ∧ (s.blk.sch.count = 2 ^ s.blk.cfg.schedBits - 1 → s.blk.irq.enabled = true → exec .schTick s = .next (s.mapBlk fun b =>
      { b with sch := { b.sch with count := 0 }, irq := { b.irq with pending := b.irq.pending ++ [.ovf] } }))
    ∧ (s.blk.sch.count = 2 ^ s.blk.cfg.schedBits - 1 → s.blk.irq.enabled = false → exec .schTick s = .next (s.mapBlk fun b =>
      { b with sch := { b.sch with count := 0 } }))
    ∧ exec .schOvf s = .next (s.mapBlk fun b =>
      { b with sch := { b.sch with overrun := true }, irq := { b.irq with pending := b.irq.pending.erase .ovf } })
    ∧ exec .schStclr s = .next (s.mapBlk fun b => { b with record := { b.record with status := 0#32 }, phase := 9#4 })

/-! ## Framer -/

/-- Step 1 of `FRM.RX` (R137): with no slot held the least `FREE` slot is claimed and the rest of the handler runs on it; with
none free the byte is dropped, flagged and its event consumed (R331). That a claim ends the flag `dropping` belongs to the switch
`OVERFLOW_LATCH` (log 29). -/
def Obligations.FrmRxClaimsFirstFreeSlot : Prop :=
  ∀ (s : State) (v : Byte), s.blk.frm.cur = none →
    (∀ k : Nat, s.blk.frm.slots[k]? = some .free → (∀ j : Nat, j < k → s.blk.frm.slots[j]? ≠ some .free) →
      ∀ i ∈ [Instr.frmRx v, .frmRxStart, .frmRxTerm, .frmRxData v],
      exec i s = exec i (s.mapBlk fun b =>
        { b with frm := { b.frm with slots := b.frm.slots.set k .claimed, cur := some k, w := 0, dropping := false } }))
    ∧ ((∀ j : Nat, s.blk.frm.slots[j]? ≠ some .free) →
      ∀ p ∈ [(Instr.frmRx v, v), (.frmRxStart, 0x24#8), (.frmRxTerm, 0x0A#8), (.frmRxData v, v)],
      exec p.1 s = .next (s.mapBlk fun b =>
        { b with frm := { b.frm with nobuf := true }, irq := { b.irq with pending := b.irq.pending.erase (.rx p.2) } }))

/-- The start marker in a held slot (R138, R139): it is stored at index 0, a partial sentence is flagged and overwritten. The
clause on `rxIgnores` is the switch `OVERFLOW_LATCH` (log 29). -/
def Obligations.FrmRxStartBeginsLine : Prop :=
  ∀ (s : State) (k : Nat), Memory.wf s.blk.mem = true → s.blk.frm.cur = some k → k < s.blk.cfg.nSlots → 8 ≤ s.blk.cfg.sentenceCap →
    ∀ i ∈ [Instr.frmRx 0x24#8, .frmRxStart],
    (rxIgnores s.blk = false → ∃ t, exec i s = .next t
      ∧ t = s.mapBlk (fun b =>
          { b with mem := t.blk.mem, frm := { b.frm with restart := b.frm.restart || decide (b.frm.w ≠ 0), w := 1 }
                   irq := { b.irq with pending := b.irq.pending.erase (.rx 0x24#8) } })
      ∧ memRead (slotAddr s.blk.cfg k 0) t.blk.mem = 0x24#8
      ∧ ∀ a, a ≠ slotAddr s.blk.cfg k 0 → memRead a t.blk.mem = memRead a s.blk.mem)
    ∧ (rxIgnores s.blk = true → exec i s = .next (s.mapBlk fun b =>
        { b with irq := { b.irq with pending := b.irq.pending.erase (.rx 0x24#8) } }))

/-- A data byte in a held slot (R139): it is stored at the cursor, which advances, or stays with the overflow flag when no room
would be left. The clause on `rxIgnores` is the switch `OVERFLOW_LATCH` (log 29). -/
def Obligations.FrmRxDataAppends : Prop :=
  ∀ (s : State) (k : Nat) (v : Byte), Memory.wf s.blk.mem = true → s.blk.frm.cur = some k → k < s.blk.cfg.nSlots →
    8 ≤ s.blk.cfg.sentenceCap → s.blk.frm.w ≤ s.blk.cfg.sentenceCap - 2 → v ≠ 0x24#8 → v ≠ 0x0A#8 →
    ∀ i ∈ [Instr.frmRx v, .frmRxData v],
    (rxIgnores s.blk = false → ∃ t, exec i s = .next t
      ∧ t = s.mapBlk (fun b =>
          { b with mem := t.blk.mem
                   frm := if b.frm.w = b.cfg.sentenceCap - 2
                     then { b.frm with overflow := true, dropping := b.frm.dropping || b.cfg.overflowLatch }
                     else { b.frm with w := b.frm.w + 1 }
                   irq := { b.irq with pending := b.irq.pending.erase (.rx v) } })
      ∧ memRead (slotAddr s.blk.cfg k s.blk.frm.w) t.blk.mem = v
      ∧ ∀ a, a ≠ slotAddr s.blk.cfg k s.blk.frm.w → memRead a t.blk.mem = memRead a s.blk.mem)
    ∧ (rxIgnores s.blk = true → exec i s = .next (s.mapBlk fun b =>
        { b with irq := { b.irq with pending := b.irq.pending.erase (.rx v) } }))

/-- The terminator in a held slot (R140): it and a null are stored, the slot becomes `READY`, the claim is released. The flag
`dropping` belongs to the switch `OVERFLOW_LATCH` (log 29) and is never set without it. -/
def Obligations.FrmRxTermCompletesLine : Prop :=
  ∀ (s : State) (k : Nat), Memory.wf s.blk.mem = true → s.blk.frm.cur = some k → k < s.blk.cfg.nSlots → 8 ≤ s.blk.cfg.sentenceCap →
    s.blk.frm.w ≤ s.blk.cfg.sentenceCap - 2 →
    ∀ i ∈ [Instr.frmRx 0x0A#8, .frmRxTerm], ∃ t, exec i s = .next t
      ∧ t = s.mapBlk (fun b =>
          { b with mem := t.blk.mem
                   frm := { b.frm with slots := b.frm.slots.set k .ready, cur := none, dropping := false }
                   irq := { b.irq with pending := b.irq.pending.erase (.rx 0x0A#8) } })
      ∧ memRead (slotAddr s.blk.cfg k s.blk.frm.w) t.blk.mem = 0x0A#8
      ∧ memRead (slotAddr s.blk.cfg k (s.blk.frm.w + 1)) t.blk.mem = 0#8
      ∧ ∀ a, a ≠ slotAddr s.blk.cfg k s.blk.frm.w → a ≠ slotAddr s.blk.cfg k (s.blk.frm.w + 1) →
          memRead a t.blk.mem = memRead a s.blk.mem

/-- `FRM.DRAIN` with no byte received in between (R142, R143): the latches move to the status word, every `READY` line is copied
to its raw field, validated, parsed in slot order and freed. -/
def Obligations.FrmDrainDeliversReadyLines : Prop :=
  ∀ s : State, Memory.wf s.blk.mem = true → s.blk.frm.slots.length = s.blk.cfg.nSlots → s.blk.cfg.nRaw ≤ s.blk.cfg.nSlots →
    ∃ t, exec .frmDrain s = .next t
      ∧ t = s.mapBlk (fun b =>
          { b with record := t.blk.record, mem := t.blk.mem, phase := 2#4
                   frm := { b.frm with slots := t.blk.frm.slots, nobuf := false, restart := false, overflow := false } })
      ∧ t.blk.record = (List.range s.blk.cfg.nSlots).foldl (drainedRecord s.blk)
          { s.blk.record with status := latchedStatus s.blk.frm s.blk.record.status }
      ∧ (∀ i : Nat, t.blk.frm.slots[i]? = if s.blk.frm.slots[i]? = some .ready then some .free else s.blk.frm.slots[i]?)
      ∧ (∀ i k, i < s.blk.cfg.nRaw → k < s.blk.cfg.sentenceCap →
          memRead (rawAddr s.blk.cfg i k) t.blk.mem =
            if s.blk.frm.slots[i]? = some .ready then memRead (slotAddr s.blk.cfg i k) s.blk.mem
            else memRead (rawAddr s.blk.cfg i k) s.blk.mem)
      ∧ ∀ a, (∀ i k, i < s.blk.cfg.nRaw → k < s.blk.cfg.sentenceCap → a ≠ rawAddr s.blk.cfg i k) →
          memRead a t.blk.mem = memRead a s.blk.mem

/-! ## Parser -/

/-- `PRS.CHK` (R158): true exactly when a `*` stands at or after index 1 with no null and no `*` before it, two hexadecimal
digits inside the buffer follow it, and they name the XOR of the bytes between; nothing but the returned value is written. -/
def Obligations.PrsChkVerdict : Prop :=
  ∀ (buf : List Byte) (s : State), ∃ ok : Bool,
    exec (.prsChk buf) s = .next (s.mapBlk fun b => { b with ret := .flag ok })
    ∧ (ok = true ↔ ∃ (i : Nat) (x y : Byte), 1 ≤ i ∧ buf[i]? = some 0x2A#8
        ∧ (∀ j, 1 ≤ j → j < i → buf[j]? ≠ some 0x2A#8 ∧ buf[j]? ≠ some 0#8)
        ∧ buf[i + 1]?.bind hexVal = some x ∧ buf[i + 2]?.bind hexVal = some y
        ∧ ((buf.take i).drop 1).foldl (· ^^^ ·) 0#8 = x * 16#8 + y)

/-- One flipped bit of the payload is detected unless the flipped byte becomes a `*` (R159). -/
def Obligations.PrsChkDetectsFlippedBit : Prop :=
  ∀ (buf : List Byte) (i j k : Nat) (v : Byte) (s : State),
    checksumOk buf = true → buf[i]? = some 0x2A#8 → (∀ m, 1 ≤ m → m < i → buf[m]? ≠ some 0x2A#8) →
    1 ≤ j → j < i → k < 8 → buf[j]? = some v → v ^^^ (1#8 <<< k) ≠ 0x2A#8 →
    exec (.prsChk (buf.set j (v ^^^ (1#8 <<< k)))) s = .next (s.mapBlk fun b => { b with ret := .flag false })

/-- An accepted fix-quality sentence (R164, with R96, R98, R165, R166) and an accepted course/speed/date sentence (R168, with
R97). -/
def Obligations.PrsAcceptedSentencesWrite : Prop :=
  (∀ (s : State) (rest : List Byte),
    (fun line : List Byte =>
      field line 6 ≠ [] → (field line 6).head? ≠ some s.blk.cfg.nofixSentinel →
      ∀ i ∈ [Instr.prsGga line, .prsParse line, .prsParseGga rest],
      (fun lat lon : F32 => exec i s = .next (s.mapBlk fun b =>
        { b with record := { b.record with
            gpsLat := lat, gpsLon := lon, gpsHdop := dec (field line 8), gpsAlt := dec (field line 9)
            gpsX := f32Mul (f32Sub lon b.cfg.refLon) b.cfg.mPerDegLon, gpsY := f32Mul (f32Sub lat b.cfg.refLat) b.cfg.mPerDegLat
            status := b.record.status ||| 1#32 } }))
        (if (field line 3).head? = some 0x53#8 then f32Neg (dmToDeg (dec (field line 2))) else dmToDeg (dec (field line 2)))
        (if (field line 5).head? = some 0x57#8 then f32Neg (dmToDeg (dec (field line 4))) else dmToDeg (dec (field line 4))))
      ([0x24#8, 0x47#8, 0x50#8, 0x47#8, 0x47#8, 0x41#8] ++ rest))
  ∧ ∀ (s : State) (rest : List Byte), s.blk.cfg.typeRmc.length = 6 → s.blk.cfg.typeRmc ≠ [0x24#8, 0x47#8, 0x50#8, 0x47#8, 0x47#8, 0x41#8] →
    (fun line : List Byte =>
      (field line 2).head? = some s.blk.cfg.validSentinel →
      ∀ i ∈ [Instr.prsRmc line, .prsParse line, .prsParseRmc rest],
      exec i s = .next (s.mapBlk fun b =>
        { b with record := { b.record with
            gpsSpeed := dec (field line 7), gpsCourse := dec (field line 8), gpsDate := decInt (field line 9)
            gpsMagvar := if (field line 11).head? = some 0x57#8 then f32Neg (dec (field line 10)) else dec (field line 10)
            status := b.record.status ||| 2#32 } }))
      (s.blk.cfg.typeRmc ++ rest)

/-- Rejected and unrecognized sentences write nothing (R162, R164 (a) and (b), R168). -/
def Obligations.PrsRejectedWritesNothing : Prop :=
  ∀ (s : State) (rest line : List Byte), s.blk.cfg.typeRmc.length = 6 →
    s.blk.cfg.typeRmc ≠ [0x24#8, 0x47#8, 0x50#8, 0x47#8, 0x47#8, 0x41#8] →
    ((fun gga : List Byte =>
      (field gga 6 = [] ∨ (field gga 6).head? = some s.blk.cfg.nofixSentinel) →
      ∀ i ∈ [Instr.prsGga gga, .prsParse gga, .prsParseGga rest], exec i s = .next s)
      ([0x24#8, 0x47#8, 0x50#8, 0x47#8, 0x47#8, 0x41#8] ++ rest))
    ∧ ((fun rmc : List Byte =>
      (field rmc 2).head? ≠ some s.blk.cfg.validSentinel →
      ∀ i ∈ [Instr.prsRmc rmc, .prsParse rmc, .prsParseRmc rest], exec i s = .next s)
      (s.blk.cfg.typeRmc ++ rest))
    ∧ (line.take 6 ≠ [0x24#8, 0x47#8, 0x50#8, 0x47#8, 0x47#8, 0x41#8] → line.take 6 ≠ s.blk.cfg.typeRmc →
      ∀ i ∈ [Instr.prsParse line, .prsParseIgnore line], exec i s = .next s)

/-- Field splitting (R95): field `k` is what stands after the `k`-th comma of the line, up to the next comma, `*` or carriage
return; the line ends at the first terminator or null. That a comma after a `*` or a carriage return counts is the model's
reading (log 16). -/
def Obligations.PrsFieldSplitting : Prop :=
  ∀ (line : List Byte) (k : Nat),
    field line k =
      (((line.takeWhile fun b => b != 0x0A#8 && b != 0x00#8).splitOn 0x2C#8).getD k []).takeWhile fun b =>
        b != 0x2A#8 && b != 0x0D#8

/-- The numbers of fields (R160, R165): `dec` is the nearest binary32 of the longest decimal prefix, ties to even, and +0.0 where
there is none; `decint` is the number of at most nine digits; `dm_to_deg` is its formula, with the greatest integer not above the
quotient. The rules name no sign for a zero that digits name or a number rounds to: that it is +0.0 without a minus is the model's
choice, and after a minus its sign is left free (log 14). -/
def Obligations.PrsNumbers : Prop :=
  (∀ (sign whole frac rest : List Byte) (point : Bool), decimalText sign whole point frac rest →
    (fun (x : F32) (n : Nat) =>
      (whole ++ frac = [] → x = 0x00000000#32)
      ∧ (n = 0 → f32Units x = 0 ∧ (sign ≠ [0x2D#8] → x = 0x00000000#32))
      ∧ (n ≠ 0 → (sign ≠ [0x2D#8] → f32Sign x = false) ∧ (sign = [0x2D#8] → f32Mag x ≠ 0 → f32Sign x = true)
        ∧ (n * 2 ^ 149 < (2 ^ 25 - 1) * 2 ^ 252 * 10 ^ frac.length → f32Finite x ∧ ∀ y, f32Finite y →
            ((n : Int) * 2 ^ 149 - f32Mag x * 10 ^ frac.length).natAbs ≤ ((n : Int) * 2 ^ 149 - f32Mag y * 10 ^ frac.length).natAbs
            ∧ (((n : Int) * 2 ^ 149 - f32Mag x * 10 ^ frac.length).natAbs
                  = ((n : Int) * 2 ^ 149 - f32Mag y * 10 ^ frac.length).natAbs →
                f32Mag y ≠ f32Mag x → x.getLsbD 0 = false))
        ∧ ((2 ^ 25 - 1) * 2 ^ 252 * 10 ^ frac.length ≤ n * 2 ^ 149 →
            x = if sign = [0x2D#8] then 0xFF800000#32 else 0x7F800000#32)))
    (dec (sign ++ whole ++ (if point then 0x2E#8 :: frac else []) ++ rest)) (numberOf (whole ++ frac)))
  ∧ (∀ ds rest : List Byte, (∀ d ∈ ds, decimalDigit d) → ds.length ≤ 9 →
      (ds.length = 9 ∨ ∀ d, rest.head? = some d → ¬decimalDigit d) → decInt (ds ++ rest) = BitVec.ofNat 32 (numberOf ds))
  ∧ ∀ v : F32, ∃ d, dmToDeg v = f32Add d (f32Div (f32Sub v (f32Mul 0x42C80000#32 d)) 0x42700000#32)
      ∧ (f32Finite (f32Div v 0x42C80000#32) → ∃ n : Int, f32Finite d ∧ f32Units d = n * 2 ^ 149
          ∧ n * 2 ^ 149 ≤ f32Units (f32Div v 0x42C80000#32) ∧ f32Units (f32Div v 0x42C80000#32) < (n + 1) * 2 ^ 149)

/-! ## Heading driver -/

/-- `HDG.BEGIN` within its contract (R188), and the refusal outside it (R200). -/
def Obligations.HdgBeginContract : Prop :=
  ∀ s : State,
    (s.blk.hdg.state = .idle → s.blk.hdg.busy = false → exec .hdgBegin s = .next (s.mapBlk fun b =>
      { b with hdg := { b.hdg with busy := true }, env := { b.env with twIssued := .start :: b.env.twIssued } }))
    ∧ (s.blk.hdg.state ≠ .idle ∨ s.blk.hdg.busy = true → exec .hdgBegin s = .refused .headingContract)

/-- The rows of the transition table (R187): one bus operation each, the received bytes, the next state; and every other pair of
state and event aborts the transfer (R196). -/
def Obligations.HdgEvtFollowsTable : Prop :=
  (∀ (s : State) (st data : Byte),
    (fun (row : TwClass → Instr → TwOp → Heading → Prop) =>
      (s.blk.hdg.state = .idle → s.blk.hdg.busy = true →
        row .start (.hdgEvtStart st data) (.send (s.blk.cfg.headingAddr <<< 1)) { s.blk.hdg with state := .addressedForWrite })
      ∧ (s.blk.hdg.state = .addressedForWrite →
        row .slawAck (.hdgEvtSlawAck st data) (.send s.blk.cfg.headingReg) { s.blk.hdg with state := .registerSent })
      ∧ (s.blk.hdg.state = .registerSent →
        row .txdataAck (.hdgEvtTxdataAck st data) .start { s.blk.hdg with state := .repeatStart })
      ∧ (s.blk.hdg.state = .repeatStart →
        row .repStart (.hdgEvtRepstart st data) (.send (s.blk.cfg.headingAddr <<< 1 ||| 1#8))
          { s.blk.hdg with state := .addressedForRead })
      ∧ (s.blk.hdg.state = .addressedForRead →
        row .slarAck (.hdgEvtSlarAck st data) .recvAck s.blk.hdg
        ∧ row .rxdataAck (.hdgEvtRxdataAck st data) .recvNack { s.blk.hdg with hi := data, state := .highByteReceived })
      ∧ (s.blk.hdg.state = .highByteReceived →
        row .rxdataNack (.hdgEvtRxdataNack st data) .stop
          { s.blk.hdg with lo := data, value := s.blk.hdg.hi ++ data, state := .done }))
    fun k i op h => ∀ j : Instr, (j = i ∨ (j = .hdgEvt st data ∧ twClass s.blk.cfg.twCodes st = k)) →
      exec j s = .next (s.mapBlk fun b =>
        { b with hdg := h, env := { b.env with twIssued := op :: b.env.twIssued }
                 irq := { b.irq with pending := b.irq.pending.erase (.tw st data) } }))
  ∧ ∀ (s : State) (st data : Byte) (k : TwClass), hdgExpects s.blk.hdg k = false →
    ∀ i : Instr, (i = twInstr k st data ∨ (i = .hdgEvt st data ∧ twClass s.blk.cfg.twCodes st = k)) →
      exec i s = .next (s.mapBlk fun b =>
        { b with hdg := { b.hdg with value := b.cfg.headingErr, state := .error }
                 env := { b.env with twIssued := .stop :: b.env.twIssued }
                 irq := { b.irq with pending := b.irq.pending.erase (.tw st data) } })

/-- `HDG.POLL` (R198, R199). -/
def Obligations.HdgPollConsumesReading : Prop :=
  ∀ s : State,
    (s.blk.hdg.state = .done → exec .hdgPoll s = .next (s.mapBlk fun b =>
      { b with record := { b.record with hdgRaw := b.hdg.value, hdgDeg := f32Div (f32OfInt b.hdg.value.toNat) 0x41200000#32
                                         hdgRad := f32Mul (f32Div (f32OfInt b.hdg.value.toNat) 0x41200000#32) 0x3C8EFA35#32 }
               hdg := { b.hdg with state := .idle, busy := true }, env := { b.env with twIssued := .start :: b.env.twIssued }
               ret := .poll (.ready b.hdg.value), phase := 3#4 }))
    ∧ (s.blk.hdg.state = .error → exec .hdgPoll s = .next (s.mapBlk fun b =>
      { b with record := { b.record with hdgRaw := b.cfg.headingErr, status := b.record.status ||| 0x40#32 }
               hdg := { b.hdg with state := .idle, busy := true }, env := { b.env with twIssued := .start :: b.env.twIssued }
               ret := .poll .error, phase := 3#4 }))
    ∧ (s.blk.hdg.state = .idle → s.blk.hdg.busy = false → exec .hdgPoll s = .next (s.mapBlk fun b =>
      { b with hdg := { b.hdg with busy := true }, env := { b.env with twIssued := .start :: b.env.twIssued }
               ret := .poll .pending, phase := 3#4 }))
    ∧ (s.blk.hdg.state ≠ .done → s.blk.hdg.state ≠ .error → (s.blk.hdg.state ≠ .idle ∨ s.blk.hdg.busy = true) →
      exec .hdgPoll s = .next (s.mapBlk fun b => { b with ret := .poll .pending, phase := 3#4 }))

/-! ## Encoder -/

/-- `ENC.EDGE` and its four arms (R206 to R211): the active cell's count or error, the sample, nothing else. -/
def Obligations.EncEdgeDecodes : Prop :=
  ∀ (s : State) (ab : BitVec 2), ∀ i ∈ [Instr.encEdge ab, encArm (ab ^^^ s.blk.enc.qPrev)],
    exec i s = .next (s.mapBlk fun b =>
      { b with
        enc := { setCell b.enc.active
            { error := (getCell b.enc.active b.enc).error || decide (ab ^^^ b.enc.qPrev = 0b00#2 ∨ ab ^^^ b.enc.qPrev = 0b11#2)
              count := (getCell b.enc.active b.enc).count +
                (if (b.enc.qPrev, ab) ∈ [(0b00#2, 0b10#2), (0b10#2, 0b11#2), (0b11#2, 0b01#2), (0b01#2, 0b00#2)] then
                  (if b.cfg.encDirALeadsB then 1#16 else -1#16)
                else if (b.enc.qPrev, ab) ∈ [(0b00#2, 0b01#2), (0b01#2, 0b11#2), (0b11#2, 0b10#2), (0b10#2, 0b00#2)] then
                  (if b.cfg.encDirALeadsB then -1#16 else 1#16)
                else 0#16) } b.enc with qPrev := ab }
        irq := { b.irq with pending := b.irq.pending.erase .qe } })

/-- `ENC.DRAIN` with no edge in between (R212). -/
def Obligations.EncDrainDelivers : Prop :=
  ∀ s : State, exec .encDrain s = .next (s.mapBlk fun b =>
    { b with
      enc := { setCell (otherCell b.enc.active) ⟨false, 0#16⟩ b.enc with active := otherCell b.enc.active }
      record := { b.record with
        encTicks := (getCell b.enc.active b.enc).count
        encValid := if (getCell b.enc.active b.enc).error then 0#8 else 1#8
        status := if (getCell b.enc.active b.enc).error then b.record.status ||| 0x80#32 else b.record.status }
      phase := 4#4 })

/-- No tick is lost (R213), modulo 2^16 so that no bound on the counts is assumed: every edge and every micro-step of a drain, from
any place of the drain, keeps the balance of drained deltas, counts and legal edges; so from reset, for edges and the micro-steps
of any number of drains in any order, with no drain in progress at the end, the drained deltas and the active cell's count add up
to the legal edges. -/
def Obligations.EncNoTickLost : Prop :=
  (∀ (r : EncoderRun) (m : Option (BitVec 2)), r.balanced → (r.move m).balanced)
  ∧ ∀ (c : Config) (e : Environment) (moves : List (Option (BitVec 2))),
    (fun r : EncoderRun => r.path = [] → r.drained + (getCell r.blk.enc.active r.blk.enc).count = r.edges)
    (EncoderRun.run moves { blk := Block.reset c e 0, path := [], drained := 0#16, edges := 0#16 })

/-! ## Estimator -/

/-- `EST.UPDATE` (R221). -/
def Obligations.EstUpdatePose : Prop :=
  ∀ s : State,
    (s.blk.record.status.getLsbD 0 = true → exec .estUpdate s = .next (s.mapBlk fun b =>
      { b with record := { b.record with estHeading := b.record.hdgRad, estX := b.record.gpsX, estY := b.record.gpsY }
               phase := 5#4 }))
    ∧ (s.blk.record.status.getLsbD 0 = false → s.blk.record.encValid = 1#8 → exec .estUpdate s = .next (s.mapBlk fun b =>
      { b with record := { b.record with
                 estHeading := b.record.hdgRad
                 estX := f32Add b.record.estX (f32Mul (f32Cos b.record.hdgRad)
                   (f32Mul (f32OfInt b.record.encTicks.toInt) b.cfg.metersPerTick))
                 estY := f32Add b.record.estY (f32Mul (f32Sin b.record.hdgRad)
                   (f32Mul (f32OfInt b.record.encTicks.toInt) b.cfg.metersPerTick)) }
               phase := 5#4 }))
    ∧ (s.blk.record.status.getLsbD 0 = false → s.blk.record.encValid ≠ 1#8 → exec .estUpdate s = .next (s.mapBlk fun b =>
      { b with record := { b.record with estHeading := b.record.hdgRad }, phase := 5#4 }))

/-! ## Guidance -/

/-- `GDE.CROSSED` (R233) of the waypoints of R231 and R232, with the switch `GATE_TEST` (D28, log 29): an index below `TABLE_LEN`
is that entry of the table, at `TABLE_LEN` stands the terminal waypoint, which is crossed from no position, and an operand above
is refused (log 19). -/
def Obligations.GdeWaypointsAndCrossing : Prop :=
  ∀ (s : State) (wp : Byte) (px py : F32),
    (∀ w, s.blk.cfg.waypoints[wp.toNat]? = some w →
      exec (.gdeCrossed wp px py) s = .next (s.mapBlk fun b => { b with ret := .flag (f32Lt
        (match b.cfg.gateTest with
          | .cross => f32Sub (f32Mul w.normU (f32Sub w.boundY py)) (f32Mul w.normV (f32Sub w.boundX px))
          | .dot => f32Add (f32Mul w.normU (f32Sub px w.boundX)) (f32Mul w.normV (f32Sub py w.boundY))) 0#32) }))
    ∧ (wp.toNat = s.blk.cfg.tableLen → exec (.gdeCrossed wp px py) s = .next (s.mapBlk fun b => { b with ret := .flag false }))
    ∧ (s.blk.cfg.tableLen < wp.toNat → exec (.gdeCrossed wp px py) s = .refused .waypointOperand)
    ∧ (∀ i w, s.blk.cfg.waypoints[i]? = some w → waypointAt s.blk.cfg i = some w)
    ∧ ∀ last, s.blk.cfg.waypoints.getLast? = some last → waypointAt s.blk.cfg s.blk.cfg.waypoints.length =
        some { throttle := .stop, posX := last.posX, posY := last.posY, boundX := 0#32, boundY := 0#32, normU := 0#32, normV := 0#32
               trust := 0#32 }

/-- `GDE.ADVANCE` (R234): the index moves up past the waypoints that are crossed, to the first that is not. -/
def Obligations.GdeAdvancePassesCrossed : Prop :=
  ∀ s : State, s.blk.record.wpIndex.toNat ≤ s.blk.cfg.tableLen → s.blk.cfg.tableLen ≤ 254 →
    ∃ n, s.blk.record.wpIndex.toNat ≤ n ∧ n ≤ s.blk.cfg.tableLen
      ∧ exec .gdeAdvance s = .next (s.mapBlk fun b => { b with record := { b.record with wpIndex := BitVec.ofNat 8 n } })
      ∧ (∀ i, s.blk.record.wpIndex.toNat ≤ i → i < n →
          ∃ w, waypointAt s.blk.cfg i = some w ∧ crossed s.blk.cfg w s.blk.record.estX s.blk.record.estY = true)
      ∧ ∃ w, waypointAt s.blk.cfg n = some w ∧ crossed s.blk.cfg w s.blk.record.estX s.blk.record.estY = false

/-- `GDE.ANGLE` (R235): +0.0 at distance zero, else the arcsine of a quotient that the clamp keeps within -1 and 1. Unless the quotient
is a NaN, the angle lies within [-pi/2, +pi/2], is positive or negative only with the cross product, 0 at a quotient of 0 and ±pi/2 at
±1; what "pi/2" is in binary32, and that nothing more is known of the functions, is log 13. An active index above `TABLE_LEN` faults in
each guidance operation (log 19). -/
def Obligations.GdeAngleToWaypoint : Prop :=
  ∀ (s : State) (px py heading : F32),
    (∀ w, waypointAt s.blk.cfg s.blk.record.wpIndex.toNat = some w →
      ∃ a, exec (.gdeAngle px py heading) s = .next (s.mapBlk fun b => { b with ret := .float a })
        ∧ (fun wx wy : F32 => (f32Eq wx 0#32 = true → f32Eq wy 0#32 = true → a = 0#32) ∧ (fun len z : F32 =>
            (f32Eq len 0#32 = true → a = 0#32)
            ∧ (f32Eq len 0#32 = false → ∃ r, a = f32Asin r ∧ f32Lt 0x3F800000#32 r = false ∧ f32Lt r 0xBF800000#32 = false
                ∧ (fun q : F32 => (f32Lt 0x3F800000#32 q = false → f32Lt q 0xBF800000#32 = false → r = q)
                    ∧ (f32Lt 0x3F800000#32 q = true → r = 0x3F800000#32) ∧ (f32Lt q 0xBF800000#32 = true → r = 0xBF800000#32))
                  (f32Div z len)
                ∧ (f32IsNan r = false → f32IsNan a = false ∧ f32Mag a ≤ f32Mag 0x3FC90FDB#32
                    ∧ (f32Lt 0#32 a = true ↔ f32Lt 0#32 r = true) ∧ (f32Lt a 0#32 = true ↔ f32Lt r 0#32 = true)
                    ∧ (r = 0x3F800000#32 → a = 0x3FC90FDA#32 ∨ a = 0x3FC90FDB#32)
                    ∧ (r = 0xBF800000#32 → a = 0xBFC90FDA#32 ∨ a = 0xBFC90FDB#32)
                    ∧ (f32Lt 0#32 a = true → f32Lt 0#32 z = true) ∧ (f32Lt a 0#32 = true → f32Lt z 0#32 = true))))
            (f32Sqrt (f32Add (f32Mul wx wx) (f32Mul wy wy)))
            (f32Sub (f32Mul (f32Cos heading) wy) (f32Mul (f32Sin heading) wx)))
          (f32Sub w.posX px) (f32Sub w.posY py))
    ∧ (s.blk.cfg.tableLen < s.blk.record.wpIndex.toNat →
        ∀ i ∈ [Instr.gdeAngle px py heading, .gdeAdvance, .gdeUpdate, .actUpdate], exec i s = .fault .waypointIndex)

/-- `GDE.UPDATE` is `GDE.ADVANCE` and then the angle to the waypoint that is active after it (R236). -/
def Obligations.GdeUpdateAdvancesThenAims : Prop :=
  ∀ s : State, s.blk.record.wpIndex.toNat ≤ s.blk.cfg.tableLen → s.blk.cfg.tableLen ≤ 254 →
    ∃ t u a, exec .gdeAdvance s = .next t
      ∧ exec (.gdeAngle s.blk.record.estX s.blk.record.estY s.blk.record.estHeading) t =
          .next (t.mapBlk fun b => { b with ret := .float a })
      ∧ exec .gdeUpdate s = .next u
      ∧ u = t.mapBlk fun b => { b with record := { b.record with wpAngle := a }, phase := 6#4 }

/-! ## Actuation -/

/-- `ACT.FWD` (R248); a class without a width is refused (R248 (b), log 19). -/
def Obligations.ActFwdSetsWidth : Prop :=
  ∀ (s : State) (c : Byte),
    (∀ us, c.toNat < s.blk.cfg.nClasses → s.blk.cfg.fwdUs[c.toNat]? = some us → exec (.actFwd c) s = .next (s.mapBlk fun b =>
      { b with record := { b.record with throttleUs := us }, act := { drive := .forward, hold := 0#8 } }))
    ∧ (s.blk.cfg.nClasses ≤ c.toNat → exec (.actFwd c) s = .refused .speedClass ∧ exec (.actRev c) s = .refused .speedClass)

/-- `ACT.STOP` (R250): one step of the ramp, or the snap within one step; and the ramp from `Forward` takes exactly as many calls as
steps fit into the distance, rounded up, and ends at neutral in `Neutral` (R250 (a)). -/
def Obligations.ActStopRampsToNeutral : Prop :=
  (∀ s : State, ∃ us d h,
    exec .actStop s = .next (s.mapBlk fun b => { b with record := { b.record with throttleUs := us }, act := { drive := d, hold := h } })
    ∧ (fun (n t : Nat) =>
      (s.blk.act.drive = .neutral → us = s.blk.cfg.neutralUs ∧ d = .neutral ∧ h = s.blk.act.hold)
      ∧ (s.blk.act.drive = .preReverse → us = s.blk.cfg.neutralUs ∧ d = .neutral ∧ h = 0#8)
      ∧ ∀ step, (s.blk.act.drive = .forward ∧ step = s.blk.cfg.stepFromFwd ∨ s.blk.act.drive = .reverse ∧ step = s.blk.cfg.stepFromRev) →
          h = s.blk.act.hold
          ∧ (t ≤ n + step → n ≤ t + step → us = s.blk.cfg.neutralUs ∧ d = .neutral)
          ∧ (n + step < t → us.toNat = t - step ∧ d = s.blk.act.drive)
          ∧ (t + step < n → us.toNat = t + step ∧ d = s.blk.act.drive))
      s.blk.cfg.neutralUs.toNat s.blk.record.throttleUs.toNat)
  ∧ ∀ (s : State) (n dist : Nat), s.blk.act.drive = .forward → 0 < dist →
    s.blk.record.throttleUs.toNat = s.blk.cfg.neutralUs.toNat + dist →
    n * s.blk.cfg.stepFromFwd < dist → dist ≤ (n + 1) * s.blk.cfg.stepFromFwd →
    (∀ m, m ≤ n → ∃ t, execAll (List.replicate m .actStop) s = .next t ∧ t.blk.act.drive = .forward
      ∧ t.blk.record.throttleUs.toNat = s.blk.cfg.neutralUs.toNat + dist - m * s.blk.cfg.stepFromFwd)
    ∧ ∃ t, execAll (List.replicate (n + 1) .actStop) s = .next t ∧ t.blk.act.drive = .neutral
      ∧ t.blk.record.throttleUs = s.blk.cfg.neutralUs

/-- `ACT.REV` (R252), arm by arm. -/
def Obligations.ActRevApproachesReverse : Prop :=
  ∀ (s : State) (c : Byte) (target : U16), c.toNat < s.blk.cfg.nClasses → s.blk.cfg.revUs[c.toNat]? = some target →
    (s.blk.act.drive = .reverse → ∃ us, exec (.actRev c) s = .next (s.mapBlk fun b => { b with record := { b.record with throttleUs := us } })
      ∧ (s.blk.record.throttleUs.toNat ≤ target.toNat + s.blk.cfg.revRampStep → us = target)
      ∧ (target.toNat + s.blk.cfg.revRampStep < s.blk.record.throttleUs.toNat →
          us.toNat = s.blk.record.throttleUs.toNat - s.blk.cfg.revRampStep))
    ∧ (s.blk.act.drive = .forward → exec (.actRev c) s = exec .actStop s)
    ∧ (s.blk.act.drive = .neutral → exec (.actRev c) s = .next (s.mapBlk fun b =>
        { b with record := { b.record with throttleUs := b.cfg.preReverseUs }, act := { drive := .preReverse, hold := 0#8 } }))
    ∧ (s.blk.act.drive = .preReverse → exec (.actRev c) s = .next (s.mapBlk fun b =>
        { b with act := { drive := if b.cfg.preReverseHold ≤ (b.act.hold + 1#8).toNat then .reverse else .preReverse
                          hold := b.act.hold + 1#8 } }))

/-- `ACT.STEER` (R255): the width is the image of the clamped angle, and lies between the images of the two travel limits. -/
def Obligations.ActSteerClamps : Prop :=
  ∀ (s : State) (angle : F32), s.blk.cfg.ok = true →
    ∃ (a : F32) (us lo hi : U16),
      exec (.actSteer angle) s = .next (s.mapBlk fun b => { b with record := { b.record with steerUs := us } })
      ∧ steerImage s.blk.cfg a us ∧ steerImage s.blk.cfg s.blk.cfg.steerMin lo ∧ steerImage s.blk.cfg s.blk.cfg.steerMax hi
      ∧ min lo.toNat hi.toNat ≤ us.toNat ∧ us.toNat ≤ max lo.toNat hi.toNat
      ∧ (f32IsNan angle = true → a = 0#32)
      ∧ (f32Lt angle s.blk.cfg.steerMin = true → a = s.blk.cfg.steerMin)
      ∧ (f32Lt s.blk.cfg.steerMax angle = true → a = s.blk.cfg.steerMax)
      ∧ (f32IsNan angle = false → f32Lt angle s.blk.cfg.steerMin = false → f32Lt s.blk.cfg.steerMax angle = false → a = angle)

/-- `ACT.UPDATE` (R262): steer to the target angle, perform the active waypoint's command, start both pulses. -/
def Obligations.ActUpdateIsItsParts : Prop :=
  ∀ (s : State) (w : Waypoint), waypointAt s.blk.cfg s.blk.record.wpIndex.toNat = some w → s.blk.cfg.nClasses ≤ 256 →
    s.blk.cfg.fwdUs.length = s.blk.cfg.nClasses → s.blk.cfg.revUs.length = s.blk.cfg.nClasses →
    s.blk.cfg.okDrive w.throttle = true →
    ∃ u, execAll [.actSteer s.blk.record.wpAngle, driveInstr w.throttle, .plsStart .steering, .plsStart .throttle] s = .next u
      ∧ exec .actUpdate s = .next (u.mapBlk fun b => { b with phase := 7#4 })

/-- `ACT.STARTUP` (R264): neutral widths and state, then pulse after pulse, one cycle period apart. A look at the wait changes
nothing else: while the wait goes on it changes nothing, and a look that finds it over ends the operation or begins the next
pulse, whose micro-steps, with no other agent between, clear the counter and the flag and start both channels. That `exec` stops
at the first wait and the main loop carries the rest is the model's (log 25). -/
def Obligations.ActStartupEmitsPulses : Prop :=
  ∀ s : State, s.blk.cfg.ok = true →
    (fun (pulse : Block → Block) =>
      (s.blk.cfg.startupPulses = 0 → exec .actStartup s = .next (s.mapBlk fun b =>
        { b with record := { b.record with throttleUs := b.cfg.neutralUs, steerUs := b.cfg.steerCenterUs }
                 act := { drive := .neutral, hold := 0#8 } }))
      ∧ (∀ n, s.blk.cfg.startupPulses = n + 1 → exec .actStartup s = .next { s.mapBlk (fun b => pulse
        { b with record := { b.record with throttleUs := b.cfg.neutralUs, steerUs := b.cfg.steerCenterUs }
                 act := { drive := .neutral, hold := 0#8 } }) with task := some (.startup n) })
      ∧ ∀ left, s.task = some (.startup left) →
        (s.blk.sch.count < s.blk.cfg.cycleTicks → s.blk.sch.overrun = false → mainStep s = .next s)
        ∧ (s.blk.cfg.cycleTicks ≤ s.blk.sch.count ∨ s.blk.sch.overrun = true →
          (left = 0 → mainStep s = .next { s with task := none })
          ∧ ∀ m, left = m + 1 → mainStep s = .next { s with task := some (.op (.startupPulse m) []) }
            ∧ ∃ n, runTask n { s with task := some (.op (.startupPulse m) []) } = { s.mapBlk pulse with task := some (.startup m) }))
    fun b => { b with
      sch := { count := 0, overrun := false }
      steer := { out := true, ocr := BitVec.ofNat 16 (b.record.steerUs.toNat * b.cfg.ticksPerUs), cnt := 0#16, run := true }
      throttle := { out := true, ocr := BitVec.ofNat 16 (b.record.throttleUs.toNat * b.cfg.ticksPerUs), cnt := 0#16, run := true } }

/-- The pulse generators (R258 to R260), channel by channel, and how long a pulse lasts: after `PLS.START` the output is high and
nothing is raised for fewer ticks than the compare value, the tick that reaches it raises the channel's match, and the match's
handler ends the pulse. That a match raises nothing while the sources are disabled is the model's reading (log 10). -/
def Obligations.PulseGeneratorSteps : Prop :=
  (∀ (s : State) (ch : Channel),
    exec (.plsStart ch) s = .next (s.mapBlk fun b => setPulse ch
      { out := true, cnt := 0#16, run := true
        ocr := BitVec.ofNat 16 ((match ch with | .steering => b.record.steerUs | .throttle => b.record.throttleUs).toNat * b.cfg.ticksPerUs) } b)
    ∧ exec (.plsMatch ch) s = .next (s.mapBlk fun b => setPulse ch { getPulse ch b with out := false, run := false }
        { b with irq := { b.irq with pending := b.irq.pending.erase (.cm ch) } })
    ∧ ((getPulse ch s.blk).run = false → exec (.plsTick ch) s = .next s)
    ∧ ((getPulse ch s.blk).run = true → exec (.plsTick ch) s = .next (s.mapBlk fun b =>
        setPulse ch { getPulse ch b with cnt := (getPulse ch b).cnt + 1#16 }
          { b with irq := { b.irq with pending :=
              if (getPulse ch b).cnt + 1#16 = (getPulse ch b).ocr ∧ b.irq.enabled = true then b.irq.pending ++ [.cm ch]
              else b.irq.pending } })))
  ∧ ∀ (s : State) (ch : Channel) (ticks : Nat),
    ticks = (match ch with | .steering => s.blk.record.steerUs | .throttle => s.blk.record.throttleUs).toNat * s.blk.cfg.ticksPerUs →
    1 ≤ ticks → ticks ≤ 65535 → s.blk.irq.enabled = true →
    ∃ t, exec (.plsStart ch) s = .next t
      ∧ (∀ n, n < ticks → ∃ u, execAll (List.replicate n (.plsTick ch)) t = .next u
          ∧ (getPulse ch u.blk).out = true ∧ u.blk.irq.pending = s.blk.irq.pending)
      ∧ ∃ u v, execAll (List.replicate ticks (.plsTick ch)) t = .next u
          ∧ (getPulse ch u.blk).out = true ∧ u.blk.irq.pending = s.blk.irq.pending ++ [.cm ch]
          ∧ exec (.plsMatch ch) u = .next v ∧ (getPulse ch v.blk).out = false ∧ (getPulse ch v.blk).run = false

/-! ## Storage -/

/-- `STO.CMD` and the arms that are a command alone (R278, R279, R281, R282, R286, R287): the six bytes of the frame, then at most
`RESP_RETRY_MAX` polls, on any device; on a device whose answers are given, the result is the first polled byte with bit 7 clear
and the polling stops there, or a time-out after the last poll. What ends the transaction is the model's for the arms (log 23). -/
def Obligations.StoCmdSendsFrameAndPolls : Prop :=
  ∀ (s : State) (cmd : BitVec 6) (arg : U32) (trail : Byte), 1 ≤ s.blk.cfg.respRetryMax →
    ∀ p ∈ [(Instr.stoCmd cmd arg trail, (⟨cmd, arg, trail⟩ : CmdFrame), true),
           (.stoCmdReadblk arg, ⟨0x11#6, arg, 0x00#8⟩, true), (.stoCmdWriteblk arg, ⟨0x18#6, arg, 0x00#8⟩, true),
           (.stoCmdReset, ⟨0x00#6, 0#32, 0x95#8⟩, false), (.stoCmdApp, ⟨0x37#6, 0#32, 0x00#8⟩, false),
           (.stoCmdOpcond, ⟨0x29#6, 0x40000000#32, 0x01#8⟩, false)],
    ∃ (t : State) (r : Option Byte) (n : Nat), exec p.1 s = .next t
      ∧ 1 ≤ n ∧ n ≤ s.blk.cfg.respRetryMax
      ∧ t = s.mapBlk (fun b =>
          { b with sto := { b.sto with cs := p.2.2 }, ret := .answer r
                   env := { b.env with
                     device := t.blk.env.device
                     spiSent := List.replicate n b.cfg.answers.filler
                       ++ [p.2.1.trail, byteOf p.2.1.arg 0, byteOf p.2.1.arg 1, byteOf p.2.1.arg 2, byteOf p.2.1.arg 3,
                           b.cfg.cmdHeader ||| p.2.1.cmd.zeroExtend 8] ++ b.env.spiSent } })
      ∧ (∀ v, r = some v → v.msb = false) ∧ (r = none → n = s.blk.cfg.respRetryMax)
      ∧ ∀ frame polls rest : List Byte, frame.length = 6 → (∀ q ∈ polls, q.msb = true) →
        (∀ v : Byte, polls.length < s.blk.cfg.respRetryMax → v.msb = false →
          s.blk.env.device = .script (frame ++ polls ++ [v] ++ rest) →
          r = some v ∧ n = polls.length + 1 ∧ t.blk.env.device = .script rest)
        ∧ (polls.length = s.blk.cfg.respRetryMax → s.blk.env.device = .script (frame ++ polls ++ rest) →
          r = none ∧ t.blk.env.device = .script rest)

/-- Every operation of the logger completes on any device, and writes nothing of the other units: neither the record, nor the
framer, the heading driver, the encoder, the actuation, the scheduler or the events (R328). -/
def Obligations.StorageContained : Prop :=
  ∀ (s : State) (cmd : BitVec 6) (arg : U32) (trail : Byte), ∀ i ∈ storageInstrs cmd arg trail,
    ∃ t, exec i s = .next t
      ∧ t = s.mapBlk (fun b =>
          { b with sto := t.blk.sto, ret := t.blk.ret, fresh := t.blk.fresh, phase := t.blk.phase
                   env := { b.env with device := t.blk.env.device, spiSent := t.blk.env.spiSent } })
      ∧ (t.blk.phase = if i = .stoWrite then 8#4 else s.blk.phase)
      ∧ (i ≠ .stoInit → s.blk.sto.enabled = false → t.blk.sto.enabled = false)

/-- What the reading arms and `STO.READBLK` keep of a device's answers (R280, R283, R285, R288, R290), and that an unexpected
answer fails them: another answer than the expected one, a time-out, and for the two block reads a wrong or missing token. The buffers
have their lengths by `Block.Inv.csd` and `Block.Inv.lead`. The form of the arms' results is the model's (log 23). -/
def Obligations.StorageReadsKeepAnswers : Prop :=
  ∀ (s : State) (addr : U32) (frame polls rest : List Byte) (r : Byte), s.blk.cfg.ok = true → answers s.blk.cfg frame polls r →
    s.blk.sto.csd.length = 16 → s.blk.sto.lead.length = 4 →
    (∀ e0 e1 e2 e3 : Byte, s.blk.env.device = .script (frame ++ polls ++ [r, e0, e1, e2, e3] ++ rest) →
      (r = s.blk.cfg.answers.idle → ∃ t, exec .stoCmdIfcond s = .next t
        ∧ t.blk.ret = .flag (decide (e2 = 0x01#8 ∧ e3 = 0xAA#8)) ∧ t.blk.sto = { s.blk.sto with cs := false }
        ∧ t.blk.env.device = .script rest)
      ∧ (r = s.blk.cfg.answers.ready → ∃ t, exec .stoCmdReadocr s = .next t
        ∧ t.blk.ret = .word (some (e0 ++ e1 ++ e2 ++ e3)) ∧ t.blk.sto = { s.blk.sto with cs := false }
        ∧ t.blk.env.device = .script rest))
    ∧ (∀ gaps data tail : List Byte, dataBlock s.blk.cfg gaps → tail.length = 2 → r = s.blk.cfg.answers.ready →
      s.blk.env.device = .script (frame ++ polls ++ [r] ++ gaps ++ [s.blk.cfg.answers.dataToken] ++ data ++ tail ++ rest) →
      (data.length = 16 → ∃ t, exec .stoCmdReadcsd s = .next t
        ∧ t.blk.ret = .flag true ∧ t.blk.sto = { s.blk.sto with cs := false, csd := data } ∧ t.blk.env.device = .script rest)
      ∧ (data.length = s.blk.cfg.blockSize → ∃ t, exec (.stoReadblk addr) s = .next t
        ∧ t.blk.ret = .flag true ∧ t.blk.sto = { s.blk.sto with cs := false, lead := data.take 4 }
        ∧ t.blk.env.device = .script rest))
    ∧ (fun fails : Instr × Result → Prop =>
      (s.blk.env.device = .script (frame ++ polls ++ [r] ++ rest) →
        (r ≠ s.blk.cfg.answers.idle → fails (.stoCmdIfcond, .flag false))
        ∧ (r ≠ s.blk.cfg.answers.ready →
          ∀ p ∈ [(Instr.stoCmdReadocr, Result.word none), (.stoCmdReadcsd, .flag false), (.stoReadblk addr, .flag false)], fails p))
      ∧ (∀ late : List Byte, late.length = s.blk.cfg.respRetryMax → (∀ q ∈ late, q.msb = true) →
        s.blk.env.device = .script (frame ++ late ++ rest) →
        ∀ p ∈ [(Instr.stoCmdIfcond, Result.flag false), (.stoCmdReadocr, .word none), (.stoCmdReadcsd, .flag false),
          (.stoReadblk addr, .flag false)], fails p)
      ∧ ∀ gaps : List Byte, (∀ g ∈ gaps, g = s.blk.cfg.answers.filler) → r = s.blk.cfg.answers.ready →
        ∀ p ∈ [(Instr.stoCmdReadcsd, Result.flag false), (.stoReadblk addr, .flag false)],
        (∀ token : Byte, gaps.length < s.blk.cfg.tokenRetryMax → token ≠ s.blk.cfg.answers.filler →
          token ≠ s.blk.cfg.answers.dataToken → s.blk.env.device = .script (frame ++ polls ++ [r] ++ gaps ++ [token] ++ rest) → fails p)
        ∧ (gaps.length = s.blk.cfg.tokenRetryMax → s.blk.cfg.answers.dataToken ≠ s.blk.cfg.answers.filler →
          s.blk.env.device = .script (frame ++ polls ++ [r] ++ gaps ++ rest) → fails p))
      fun p => ∃ t, exec p.1 s = .next t ∧ t.blk.ret = p.2 ∧ t.blk.env.device = .script rest
        ∧ t.blk.sto = { s.blk.sto with cs := false, lead := t.blk.sto.lead, csd := t.blk.sto.csd }

/-- `STO.FIND` on the reference device (R292, R293): with the guard prefix on blocks 0 to k-1 alone it returns k, or 0 when every
block is used, and the reads it makes are at most one more than the logarithm of the capacity. On a scripted device a read that fails
disables the storage (R315, R325; log 41). `lead` has its length by `Block.Inv.lead`. -/
def Obligations.StoFindReturnsFirstFreeBlock : Prop :=
  (∀ (s : State) (d : RefDevice) (k : Nat), s.blk.cfg.ok = true → s.blk.cfg.answers = standardAnswers → s.blk.cfg.cmdHeader = 0x40#8 →
    2 ≤ s.blk.cfg.tokenRetryMax → s.blk.sto.lead.length = 4 → s.blk.env.device = .reference d → quiet d →
    0 < s.blk.sto.capacityBlocks.toNat → s.blk.sto.capacityBlocks.toNat ≤ d.nb → k ≤ s.blk.sto.capacityBlocks.toNat →
    (∀ a, a < s.blk.sto.capacityBlocks.toNat → ((refBlock s.blk.cfg d a).take 4 = guardImage s.blk.cfg ↔ a < k)) →
    ∃ t, exec .stoFind s = .next t
      ∧ t.blk.ret = .word (some (BitVec.ofNat 32 (if k < s.blk.sto.capacityBlocks.toNat then k else 0)))
      ∧ t.blk.env.device = .reference d ∧ t.blk.sto.cs = false
      ∧ t.blk.env.spiSent.length ≤ s.blk.env.spiSent.length
          + (Nat.clog 2 s.blk.sto.capacityBlocks.toNat + 1) * (s.blk.cfg.blockSize + 11))
  ∧ ∀ (s : State) (bs rest : List Byte), s.blk.cfg.ok = true → s.blk.sto.lead.length = 4 →
    searchRefusal s.blk.cfg s.blk.sto.capacityBlocks.toNat bs → s.blk.env.device = .script (bs ++ rest) →
    ∃ t, exec .stoFind s = .next t ∧ t.blk.ret = .word none ∧ t.blk.env.device = .script rest
      ∧ t.blk.sto = { s.blk.sto with cs := false, enabled := false, lead := t.blk.sto.lead }

/-- `STO.INIT` on any device (R289, R299): it ends deselected; when it enables the storage, the bus is fast, the capacity is that
of the register read, and the next block is below it. On the reference device (R310, log 28) it enables the storage when the
device gets ready within the rounds and is block-addressed, with the block that `STO.FIND` finds, and leaves it disabled when
bit 30 of the register is clear (R284) or the rounds are used up. On a scripted device (R279 to R285, R292, R325) it leaves the
storage disabled and the device deselected when the answers fail any of its six steps after those before it have passed, and takes no
answer after them. The buffers have their lengths by `Block.Inv.csd` and `Block.Inv.lead`. -/
def Obligations.StoInitOutcome : Prop :=
  (∀ s : State, ∃ t, exec .stoInit s = .next t ∧ t.blk.sto.cs = false
    ∧ (t.blk.sto.enabled = true → t.blk.sto.fast = true
        ∧ t.blk.sto.capacityBlocks.toNat =
            (((t.blk.sto.csd.getD 7 0#8).toNat % 64) * 65536 + (t.blk.sto.csd.getD 8 0#8).toNat * 256
              + (t.blk.sto.csd.getD 9 0#8).toNat + 1) * 512
        ∧ t.blk.sto.nextBlock.toNat < t.blk.sto.capacityBlocks.toNat)
    ∧ ∃ sent, t.blk.env.spiSent = sent ++ (frameBytes s.blk.cfg ⟨0x00#6, 0#32, 0x95#8⟩).reverse ++ s.blk.env.spiSent)
  ∧ (∀ (s : State) (d : RefDevice) (k cap : Nat), s.blk.cfg.ok = true → s.blk.cfg.answers = standardAnswers →
    s.blk.cfg.cmdHeader = 0x40#8 → 2 ≤ s.blk.cfg.tokenRetryMax → s.blk.sto.csd.length = 16 → s.blk.sto.lead.length = 4 →
    s.blk.env.device = .reference d → quiet d → d.ocr.length = 4 → d.csd.length = 16 →
    (((d.ocr.getD 0 0#8).getLsbD 6 = false ∨ s.blk.cfg.opcondRetryMax ≤ d.warm) →
      ∃ t, exec .stoInit s = .next t ∧ t.blk.sto.enabled = false ∧ t.blk.sto.fast = false ∧ t.blk.sto.cs = false)
    ∧ ((d.ocr.getD 0 0#8).getLsbD 6 = true → d.warm < s.blk.cfg.opcondRetryMax →
      cap = ((d.csd.getD 7 0#8).toNat % 64 * 65536 + (d.csd.getD 8 0#8).toNat * 256 + (d.csd.getD 9 0#8).toNat + 1) * 512 →
      cap ≤ d.nb → k ≤ cap → (∀ a, a < cap → ((refBlock s.blk.cfg d a).take 4 = guardImage s.blk.cfg ↔ a < k)) →
      ∃ t u, exec .stoInit s = .next t ∧ t.blk.sto.enabled = true ∧ t.blk.sto.fast = true ∧ t.blk.sto.cs = false
        ∧ t.blk.sto.csd = d.csd ∧ t.blk.sto.capacityBlocks.toNat = cap ∧ t.blk.sto.nextBlock.toNat = (if k < cap then k else 0)
        ∧ exec .stoFind t = .next u ∧ u.blk.ret = .word (some t.blk.sto.nextBlock)))
  ∧ ∀ (s : State) (before after : List InitStep) (step : InitStep) (passed : List (List Byte)) (csd failed rest : List Byte),
    s.blk.cfg.ok = true → s.blk.cfg.answers.idle ≠ s.blk.cfg.answers.ready → s.blk.sto.csd.length = 16 → s.blk.sto.lead.length = 4 →
    initSteps = before ++ step :: after → List.Forall₂ (stepPasses s.blk.cfg csd) before passed → stepFails s.blk.cfg csd step failed →
    s.blk.env.device = .script (passed.flatten ++ failed ++ rest) →
    ∃ t, exec .stoInit s = .next t ∧ t.blk.sto.enabled = false ∧ t.blk.sto.cs = false ∧ t.blk.env.device = .script rest
      ∧ t.blk.sto.fast = decide (step = .readcsd ∨ step = .find) ∧ t.blk.sto.nextBlock = s.blk.sto.nextBlock

/-- `STO.WRITE` on any device (R295, R299, R300): disabled it makes no exchange, full it latches the disable, else it either
advances `next_block` by one or disables the storage; the phase becomes 8 in every case. On a scripted device it disables the storage,
with `next_block` kept and no answer taken after it, on an answer other than "ready" or none, on a data response that is not "data
accepted" (R296) and on a busy wait up to the ceiling (R298, R325). -/
def Obligations.StoWriteOutcome : Prop :=
  ∀ s : State,
    (s.blk.sto.enabled = false → exec .stoWrite s = .next (s.mapBlk fun b => { b with phase := 8#4 }))
    ∧ (s.blk.sto.enabled = true → s.blk.sto.capacityBlocks.toNat ≤ s.blk.sto.nextBlock.toNat →
        exec .stoWrite s = .next (s.mapBlk fun b => { b with sto := { b.sto with enabled := false }, phase := 8#4 }))
    ∧ (s.blk.sto.enabled = true → s.blk.sto.nextBlock.toNat < s.blk.sto.capacityBlocks.toNat →
        ∃ t, exec .stoWrite s = .next t
          ∧ t = s.mapBlk (fun b =>
              { b with sto := { b.sto with cs := false, enabled := t.blk.sto.enabled, nextBlock := t.blk.sto.nextBlock }, phase := 8#4
                       env := { b.env with device := t.blk.env.device, spiSent := t.blk.env.spiSent } })
          ∧ ((t.blk.sto.enabled = true ∧ t.blk.sto.nextBlock = s.blk.sto.nextBlock + 1#32)
              ∨ (t.blk.sto.enabled = false ∧ t.blk.sto.nextBlock = s.blk.sto.nextBlock)))
    ∧ ∀ bs rest : List Byte, s.blk.sto.enabled = true → s.blk.sto.nextBlock.toNat < s.blk.sto.capacityBlocks.toNat →
        writeRefusal s.blk.cfg bs → s.blk.env.device = .script (bs ++ rest) →
        ∃ sent, exec .stoWrite s = .next (s.mapBlk fun b =>
          { b with sto := { b.sto with cs := false, enabled := false }, phase := 8#4
                   env := { b.env with device := .script rest, spiSent := sent ++ b.env.spiSent } }) ∧ sent.length = bs.length

/-- What an accepted write puts on the bus, byte for byte (R287, R295, R296, R298): the frame, the polls, the token, the record
image, two fillers, the data response, the busy polls. -/
def Obligations.StoWriteStreamsRecord : Prop :=
  ∀ (s : State) (frame polls echo busies rest : List Byte) (resp last : Byte), s.blk.cfg.ok = true →
    s.blk.cfg.busyIgnored = false → s.blk.sto.enabled = true → s.blk.sto.nextBlock.toNat < s.blk.sto.capacityBlocks.toNat →
    answers s.blk.cfg frame polls s.blk.cfg.answers.ready → echo.length = s.blk.cfg.blockSize + 3 →
    resp &&& s.blk.cfg.answers.respMask = s.blk.cfg.answers.respAccepted →
    (∀ v ∈ busies, v = s.blk.cfg.answers.busy) → busies.length < s.blk.cfg.busyRetryMax → last ≠ s.blk.cfg.answers.busy →
    s.blk.env.device =
      .script (frame ++ polls ++ [s.blk.cfg.answers.ready] ++ echo ++ [resp] ++ busies ++ [last] ++ rest) →
    exec .stoWrite s = .next (s.mapBlk fun b =>
      { b with sto := { b.sto with cs := false, nextBlock := b.sto.nextBlock + 1#32 }, phase := 8#4
               env := { b.env with
                 device := .script rest
                 spiSent := (frameBytes b.cfg ⟨0x18#6, b.sto.nextBlock, 0x00#8⟩
                   ++ List.replicate (polls.length + 1) b.cfg.answers.filler ++ [b.cfg.answers.dataToken] ++ recordImage b
                   ++ List.replicate (busies.length + 4) b.cfg.answers.filler).reverse ++ b.env.spiSent } })

/-- The record image (R21, R22, R63): `BLOCK_SIZE` bytes, the guards at its two ends, the cycle counter and the status word after
the prefix, the raw fields, then each field at its place (under configuration T the offsets 348 to 420 of R21), zeros between the
fields and the suffix. -/
def Obligations.RecordImageLayout : Prop :=
  ∀ b : Block, b.cfg.ok = true →
    (recordImage b).length = b.cfg.blockSize
    ∧ (recordImage b).take 12 = le32 b.record.guardPrefix ++ le32 b.record.cycle ++ le32 b.record.status
    ∧ (∀ i k, i < b.cfg.nRaw → k < b.cfg.sentenceCap →
        recordByte (12 + i * b.cfg.sentenceCap + k) b = memRead (rawAddr b.cfg i k) b.mem)
    ∧ (∀ p ∈ [(0, le32 b.record.gpsLat), (4, le32 b.record.gpsLon), (8, le32 b.record.gpsHdop), (12, le32 b.record.gpsAlt),
          (16, le32 b.record.gpsX), (20, le32 b.record.gpsY), (24, le32 b.record.gpsSpeed), (28, le32 b.record.gpsCourse),
          (32, le32 b.record.gpsDate), (36, le32 b.record.gpsMagvar), (40, le16 b.record.hdgRaw), (42, le32 b.record.hdgDeg),
          (46, le32 b.record.hdgRad), (50, le16 b.record.encTicks), (52, [b.record.encValid]), (53, le32 b.record.estX),
          (57, le32 b.record.estY), (61, le32 b.record.estHeading), (65, [b.record.wpIndex]), (66, le32 b.record.wpAngle),
          (70, le16 b.record.steerUs), (72, le16 b.record.throttleUs)],
        ((recordImage b).drop (12 + b.cfg.nRaw * b.cfg.sentenceCap + p.1)).take p.2.length = p.2)
    ∧ (∀ i, 12 + b.cfg.nRaw * b.cfg.sentenceCap + 74 ≤ i → i < b.cfg.blockSize - 4 → recordByte i b = 0#8)
    ∧ (recordImage b).drop (b.cfg.blockSize - 4) = le32 b.record.guardSuffix
end

