-- ==== Sys2Proof/Laws/Floats.lean ====
section
/-!
SUPPORT. The binary32 patterns, and for each configuration function of R12 one lemma that says what its value can be (log 13).
-/

namespace Sys2Proof.Machine

/-! ## Patterns -/

theorem f32Pack_toNat (s : Bool) {p : Nat} (h : p < 2 ^ 31) : (f32Pack s p).toNat = (if s then 2 ^ 31 else 0) + p := by
  cases s <;> simp only [f32Pack, BitVec.toNat_ofNat, if_true, Bool.false_eq_true, if_false] <;> omega

theorem f32Sign_pack (s : Bool) {p : Nat} (h : p < 2 ^ 31) : f32Sign (f32Pack s p) = s := by
  rw [f32Sign, BitVec.msb_eq_decide, f32Pack_toNat s h]
  cases s
  · simpa using h
  · simp

theorem f32Exp_pack (s : Bool) {p : Nat} (h : p < 2 ^ 31) : f32Exp (f32Pack s p) = p / 2 ^ 23 := by
  rw [f32Exp, f32Pack_toNat s h]
  cases s <;> simp <;> omega

theorem f32Frac_pack (s : Bool) {p : Nat} (h : p < 2 ^ 31) : f32Frac (f32Pack s p) = p % 2 ^ 23 := by
  rw [f32Frac, f32Pack_toNat s h]
  cases s
  · simp
  · simp [Nat.add_mod]

/-- A pattern up to that of infinity is a number. -/
theorem f32IsNan_pack (s : Bool) {p : Nat} (h : p ≤ 0x7F800000) : f32IsNan (f32Pack s p) = false := by
  have h31 : p < 2 ^ 31 := by omega
  simp only [f32IsNan, f32Exp_pack s h31, f32Frac_pack s h31, Bool.and_eq_false_iff, beq_eq_false_iff_ne, bne_eq_false_iff_eq]
  omega

/-- The magnitude does not depend on the sign. -/
theorem f32Mag_pack (s : Bool) {p : Nat} (h : p < 2 ^ 31) : f32Mag (f32Pack s p) = f32Mag (f32Pack false p) := by
  simp only [f32Mag, f32Exp_pack _ h, f32Frac_pack _ h]

/-- Magnitudes are in the order of their patterns. -/
theorem f32Mag_pack_mono (s : Bool) {p q : Nat} (hpq : p ≤ q) (hq : q < 2 ^ 31) :
    f32Mag (f32Pack s p) ≤ f32Mag (f32Pack s q) := by
  have hp : p < 2 ^ 31 := by omega
  simp only [f32Mag, f32Exp_pack _ hp, f32Frac_pack _ hp, f32Exp_pack _ hq, f32Frac_pack _ hq]
  have he : p / 2 ^ 23 ≤ q / 2 ^ 23 := Nat.div_le_div_right hpq
  have hp' : p % 2 ^ 23 < 2 ^ 23 := Nat.mod_lt _ (by decide)
  by_cases h0 : p / 2 ^ 23 = 0
  · by_cases h1 : q / 2 ^ 23 = 0
    · simp only [h0, h1, if_true]
      omega
    · simp only [h0, h1, if_true, if_false]
      exact le_trans (by omega) (Nat.le_mul_of_pos_right _ (Nat.two_pow_pos _))
  · have h1 : q / 2 ^ 23 ≠ 0 := by omega
    simp only [h0, h1, if_false]
    rcases Nat.eq_or_lt_of_le he with heq | hlt
    · rw [heq]
      exact Nat.mul_le_mul_right _ (by omega)
    · calc (2 ^ 23 + p % 2 ^ 23) * 2 ^ (p / 2 ^ 23 - 1) ≤ 2 ^ 24 * 2 ^ (p / 2 ^ 23 - 1) := Nat.mul_le_mul_right _ (by omega)
        _ = 2 ^ 23 * 2 ^ (p / 2 ^ 23) := by
            rw [show p / 2 ^ 23 = p / 2 ^ 23 - 1 + 1 by omega, Nat.add_sub_cancel, pow_succ]
            ring
        _ ≤ 2 ^ 23 * 2 ^ (q / 2 ^ 23 - 1) := Nat.mul_le_mul_left _ (Nat.pow_le_pow_right (by decide) (by omega))
        _ ≤ (2 ^ 23 + q % 2 ^ 23) * 2 ^ (q / 2 ^ 23 - 1) := Nat.mul_le_mul_right _ (by omega)

/-- Only the pattern 0 has the magnitude 0. -/
theorem f32Mag_pack_pos (s : Bool) {p : Nat} (h0 : 0 < p) (h : p < 2 ^ 31) : 0 < f32Mag (f32Pack s p) := by
  refine lt_of_lt_of_le ?_ (f32Mag_pack_mono s (show 1 ≤ p from h0) h)
  rw [f32Mag_pack s (by decide)]
  decide

/-! ## The configuration functions -/

/-- A value within bounds is a pattern within them. -/
theorem f32Within_eq (s : Bool) {lo hi : Nat} (h : lo ≤ hi) (free : F32) :
    ∃ p, lo ≤ p ∧ p ≤ hi ∧ f32Within s lo hi free = f32Pack s p :=
  ⟨_, le_max_left _ _, max_le h (min_le_right _ _), rfl⟩

/-- The zero of either sign; +0.0 for +0.0. -/
theorem f32ZeroLike_eq (x free : F32) : ∃ s, (f32Sign x = false → s = false) ∧ f32ZeroLike x free = f32Pack s 0 :=
  ⟨_, fun h => by simp [h], rfl⟩

/-- The cosine of a finite heading: 1 at 0, and at most 1 in magnitude. -/
theorem f32Cos_eq {x : F32} (h : f32Exp x ≠ 255) :
    ∃ s p, p ≤ f32OneBits ∧ f32Cos x = f32Pack s p ∧ (f32Mag x = 0 → s = false ∧ p = f32OneBits) := by
  unfold f32Cos unitComponent
  rw [if_neg h]
  split
  · exact ⟨false, f32OneBits, le_rfl, rfl, fun _ => ⟨rfl, rfl⟩⟩
  · next h0 =>
    obtain ⟨p, -, hp, he⟩ := f32Within_eq (f32Sign (Config.cos x)) (Nat.zero_le f32OneBits) (Config.cos x)
    exact ⟨_, p, hp, he, fun h' => absurd h' h0⟩

/-- The sine of a finite heading: 0 at 0, and at most 1 in magnitude. -/
theorem f32Sin_eq {x : F32} (h : f32Exp x ≠ 255) :
    ∃ s p, p ≤ f32OneBits ∧ f32Sin x = f32Pack s p ∧ (f32Mag x = 0 → p = 0 ∧ (f32Sign x = false → s = false)) := by
  unfold f32Sin unitComponent
  rw [if_neg h]
  split
  · obtain ⟨s, hs, he⟩ := f32ZeroLike_eq x (Config.sin x)
    exact ⟨s, 0, Nat.zero_le _, he, fun _ => ⟨rfl, hs⟩⟩
  · next h0 =>
    obtain ⟨p, -, hp, he⟩ := f32Within_eq (f32Sign (Config.sin x)) (Nat.zero_le f32OneBits) (Config.sin x)
    exact ⟨_, p, hp, he, fun h' => absurd h' h0⟩

/-- The arcsine of a number: a zero of a zero; else a magnitude within pi/2 with the operand's sign, one of the two neighbours of
pi/2 from 1 on. -/
theorem f32Asin_eq {r : F32} (h : f32IsNan r = false) :
    (f32Mag r = 0 ∧ ∃ s, (f32Sign r = false → s = false) ∧ f32Asin r = f32Pack s 0)
    ∨ (f32Mag r ≠ 0 ∧ ∃ p, 1 ≤ p ∧ p ≤ f32HalfPi ∧ f32Asin r = f32Pack (f32Sign r) p
        ∧ (f32One ≤ f32Mag r → p = f32HalfPiBelow ∨ p = f32HalfPi)) := by
  simp only [f32Asin, h, Bool.false_eq_true, if_false]
  by_cases h0 : f32Mag r = 0
  · rw [if_pos h0]
    exact .inl ⟨h0, f32ZeroLike_eq _ _⟩
  · rw [if_neg h0]
    refine .inr ⟨h0, ?_⟩
    by_cases h1 : f32One ≤ f32Mag r
    · rw [if_pos h1]
      obtain ⟨p, hl, hu, he⟩ := f32Within_eq (f32Sign r) (show f32HalfPiBelow ≤ f32HalfPi by decide) (Config.asin r)
      refine ⟨p, le_trans (by decide) hl, hu, he, fun _ => ?_⟩
      simp only [f32HalfPiBelow, f32HalfPi] at *
      omega
    · rw [if_neg h1]
      obtain ⟨p, hl, hu, he⟩ := f32Within_eq (f32Sign r) (show 1 ≤ f32HalfPi by decide) (Config.asin r)
      exact ⟨p, hl, hu, he, fun h' => absurd h' h1⟩

/-- The bisection adds less than `2 ^ bits`. -/
theorem rootBelow_lt (x : F32) : ∀ bits p, rootBelow x bits p < p + 2 ^ bits
  | 0, p => by simp [rootBelow]
  | bits + 1, p => by
    have h1 := rootBelow_lt x bits p
    have h2 := rootBelow_lt x bits (p + 2 ^ bits)
    have h3 := Nat.two_pow_pos bits
    rw [rootBelow, show 2 ^ (bits + 1) = 2 ^ bits + 2 ^ bits by rw [pow_succ]; omega]
    split <;> omega

/-- The bisection ends at a value whose square is at most `x`, if it starts at one. -/
theorem rootBelow_sq_le (x : F32) : ∀ bits p, f32Mag (f32Pack false p) ^ 2 ≤ f32Mag x * f32One →
    f32Mag (f32Pack false (rootBelow x bits p)) ^ 2 ≤ f32Mag x * f32One
  | 0, _, h => h
  | bits + 1, p, h => by
    rw [rootBelow]
    split
    · next hq => exact rootBelow_sq_le x bits _ hq
    · exact rootBelow_sq_le x bits _ h

/-- A value that is neither an infinity nor a NaN is below infinity in magnitude. -/
theorem f32Mag_lt {x : F32} (h : f32IsNan x = false) (hi : f32IsInf x ≠ true) : f32Mag x < 2 ^ 24 * 2 ^ 253 := by
  have he : f32Exp x ≤ 254 := by
    have h8 : f32Exp x < 256 := Nat.mod_lt _ (by decide)
    have h9 : f32Exp x ≠ 255 := by
      intro h'
      by_cases h0 : f32Frac x = 0 <;> simp [f32IsNan, f32IsInf, h', h0] at h hi
    omega
  have hf : f32Frac x < 2 ^ 23 := Nat.mod_lt _ (by decide)
  unfold f32Mag
  split
  · exact lt_trans hf (by decide)
  · calc (2 ^ 23 + f32Frac x) * 2 ^ (f32Exp x - 1) < 2 ^ 24 * 2 ^ (f32Exp x - 1) :=
          Nat.mul_lt_mul_of_pos_right (by omega) (Nat.two_pow_pos _)
      _ ≤ 2 ^ 24 * 2 ^ 253 := Nat.mul_le_mul_left _ (Nat.pow_le_pow_right (by decide) (by omega))

/-- The bisection stays below infinity. -/
theorem rootBelow_lt_inf {x : F32} (h : f32IsNan x = false) (hi : f32IsInf x ≠ true) : rootBelow x 31 0 < 0x7F800000 := by
  have hp := rootBelow_lt x 31 0
  have hsq := rootBelow_sq_le x 31 0 (by rw [show f32Mag (f32Pack false 0) = 0 by decide]; exact Nat.zero_le _)
  by_contra hc
  have hm := f32Mag_pack_mono false (Nat.le_of_not_lt hc) (by omega : rootBelow x 31 0 < 2 ^ 31)
  rw [show f32Mag (f32Pack false 0x7F800000) = 2 ^ 24 * 2 ^ 253 by decide +kernel] at hm
  have h1 : (2 ^ 24 * 2 ^ 253) ^ 2 ≤ f32Mag x * f32One := le_trans (Nat.pow_le_pow_left hm 2) hsq
  have h2 : f32Mag x * f32One < 2 ^ 24 * 2 ^ 253 * f32One := Nat.mul_lt_mul_of_pos_right (f32Mag_lt h hi) (by decide)
  exact absurd (lt_of_le_of_lt h1 h2) (by decide)

/-- The root that is taken has the square of the one that was found, and is that one or the free one. -/
theorem rootNear_eq {x : F32} {q : Nat} (h : isRoot x (f32Pack false q) = true) (free : F32) :
    isRoot x (rootNear x q free) = true ∧ (rootNear x q free = f32Pack false q ∨ rootNear x q free = free) := by
  unfold rootNear
  split
  · next hc => exact ⟨(Bool.and_eq_true _ _ ▸ hc).2, .inr rfl⟩
  · exact ⟨h, .inl rfl⟩

/-- The square root of a number that is not negative: +0.0 of +0.0, else a positive number. -/
theorem f32Sqrt_eq {x : F32} (h : f32IsNan x = false) (hs : f32Sign x = false) :
    ∃ p, p ≤ 0x7F800000 ∧ f32Sqrt x = f32Pack false p ∧ (p = 0 ↔ f32Mag x = 0) := by
  simp only [f32Sqrt, h, hs, Bool.false_eq_true, if_false]
  by_cases h0 : f32Mag x = 0
  · obtain ⟨s, hz, he⟩ := f32ZeroLike_eq x (Config.sqrt x)
    exact ⟨0, by decide, by rw [if_pos h0, he, hz hs], by simp [h0]⟩
  · rw [if_neg h0]
    by_cases hi : f32IsInf x = true
    · rw [if_pos hi]
      obtain ⟨p, hl, hu, he⟩ := f32Within_eq false (show 1 ≤ 0x7F800000 by decide) (Config.sqrt x)
      exact ⟨p, hu, he, by omega⟩
    · rw [if_neg hi]
      have hlt := rootBelow_lt_inf h hi
      obtain ⟨f, hl, hu, he⟩ := f32Within_eq false (show 1 ≤ 0x7F7FFFFF by decide) (Config.sqrt x)
      rw [he]
      have hf : ∃ p, p ≤ 0x7F800000 ∧ f32Pack false f = f32Pack false p ∧ (p = 0 ↔ f32Mag x = 0) := ⟨f, by omega, rfl, by omega⟩
      have near : ∀ q, q ≤ 0x7F800000 → isRoot x (f32Pack false q) = true →
          ∃ p, p ≤ 0x7F800000 ∧ rootNear x q (f32Pack false f) = f32Pack false p ∧ (p = 0 ↔ f32Mag x = 0) := by
        intro q hq hr
        rcases (rootNear_eq hr (f32Pack false f)).2 with h1 | h1 <;> rw [h1]
        · refine ⟨q, hq, rfl, fun hz => absurd ?_ h0, fun hx => absurd hx h0⟩
          rw [← eq_of_beq hr, hz]
          decide
        · exact hf
      split
      · next hsq => exact near _ hlt.le hsq
      · split
        · next hsq => exact near _ hlt hsq
        · exact hf

end Sys2Proof.Machine
end

