-- ==== Sys2Proof/Laws/Memory.lean ====
section
/-!
SUPPORT. The laws of memory: what a read gives after a write, and that every memory operation keeps the canonical form.
-/

namespace Sys2Proof.Machine

theorem memRead_memCons_same (a : Nat) (v : Byte) (m : Memory) (h : memRead a m = 0#8) : memRead a (memCons a v m) = v := by
  unfold memCons
  split
  · next hv => rw [h, hv]
  · simp [memRead]

theorem memRead_memCons_other {a x : Nat} (h : a ≠ x) (v : Byte) (m : Memory) : memRead a (memCons x v m) = memRead a m := by
  unfold memCons
  split
  · rfl
  · simp [memRead, h]

/-- Below its least address a memory reads as unlisted. -/
theorem memRead_below {lo a : Nat} {m : Memory} (hm : memRising lo m = true) (h : a < lo) : memRead a m = 0#8 := by
  induction m generalizing lo with
  | nil => rfl
  | cons p rest ih =>
    obtain ⟨x, v⟩ := p
    simp only [memRising, Bool.and_eq_true, decide_eq_true_eq] at hm
    rw [memRead, if_neg (by omega)]
    exact ih hm.2 (by omega)

theorem memRising_weaken {lo lo' : Nat} {m : Memory} (h : lo ≤ lo') (hm : memRising lo' m = true) : memRising lo m = true := by
  cases m with
  | nil => rfl
  | cons p rest =>
    obtain ⟨x, v⟩ := p
    simp only [memRising, Bool.and_eq_true, decide_eq_true_eq] at hm ⊢
    exact ⟨⟨by omega, hm.1.2⟩, hm.2⟩

theorem memRising_memCons {lo a : Nat} (v : Byte) {m : Memory} (h : lo ≤ a) (hm : memRising (a + 1) m = true) :
    memRising lo (memCons a v m) = true := by
  unfold memCons
  split
  · exact memRising_weaken (by omega) hm
  · next hv => simp [memRising, hm, hv, h]

/-- A write keeps addresses rising and entries non-zero. -/
theorem memRising_memWrite {lo a : Nat} (v : Byte) {m : Memory} (h : lo ≤ a) (hm : memRising lo m = true) :
    memRising lo (memWrite a v m) = true := by
  induction m generalizing lo with
  | nil => exact memRising_memCons v h rfl
  | cons p rest ih =>
    obtain ⟨x, u⟩ := p
    have hm' := hm
    simp only [memRising, Bool.and_eq_true, decide_eq_true_eq] at hm'
    unfold memWrite
    split
    · refine memRising_memCons v h ?_
      simp only [memRising, Bool.and_eq_true, decide_eq_true_eq]
      exact ⟨⟨by omega, hm'.1.2⟩, hm'.2⟩
    · split
      · next hx => exact memRising_memCons v h (hx ▸ hm'.2)
      · simp only [memRising, Bool.and_eq_true, decide_eq_true_eq]
        exact ⟨hm'.1, ih (by omega) hm'.2⟩

/-- `memWrite` keeps the canonical form. -/
theorem wf_memWrite (a : Nat) (v : Byte) {m : Memory} (h : Memory.wf m = true) : Memory.wf (memWrite a v m) = true :=
  memRising_memWrite v (Nat.zero_le a) h

/-- `memWriteList` keeps the canonical form. -/
theorem wf_memWriteList (a : Nat) (vs : List Byte) {m : Memory} (h : Memory.wf m = true) :
    Memory.wf (memWriteList a vs m) = true := by
  induction vs generalizing a m with
  | nil => exact h
  | cons v vs ih => exact ih (a + 1) (wf_memWrite a v h)

/-- Empty memory is in canonical form. -/
theorem wf_nil : Memory.wf [] = true := rfl

theorem memRead_memWrite_same_rising {lo : Nat} (a : Nat) (v : Byte) {m : Memory} (hm : memRising lo m = true) :
    memRead a (memWrite a v m) = v := by
  induction m generalizing lo with
  | nil => exact memRead_memCons_same a v [] rfl
  | cons p rest ih =>
    obtain ⟨x, u⟩ := p
    have hm' := hm
    simp only [memRising, Bool.and_eq_true, decide_eq_true_eq] at hm'
    unfold memWrite
    split
    · next hx =>
      refine memRead_memCons_same a v _ ?_
      rw [memRead, if_neg (by omega)]
      exact memRead_below hm'.2 (by omega)
    · split
      · next hx => exact memRead_memCons_same a v rest (memRead_below hm'.2 (by omega))
      · next hx => rw [memRead, if_neg hx]; exact ih hm'.2

/-- A read gives the byte written last at its address. -/
theorem memRead_memWrite_same (a : Nat) (v : Byte) {m : Memory} (h : Memory.wf m = true) :
    memRead a (memWrite a v m) = v := memRead_memWrite_same_rising a v h

/-- A write leaves every other address alone. -/
theorem memRead_memWrite_other {a x : Nat} (h : a ≠ x) (v : Byte) (m : Memory) :
    memRead a (memWrite x v m) = memRead a m := by
  induction m with
  | nil => exact memRead_memCons_other h v []
  | cons p rest ih =>
    obtain ⟨y, u⟩ := p
    unfold memWrite
    split
    · exact memRead_memCons_other h v _
    · split
      · next hx => rw [memRead_memCons_other h, memRead, if_neg (by omega)]
      · simp only [memRead, ih]

/-- Outside the written range a list of bytes written changes nothing. -/
theorem memRead_memWriteList_other {a x : Nat} (vs : List Byte) (m : Memory) (h : a < x ∨ x + vs.length ≤ a) :
    memRead a (memWriteList x vs m) = memRead a m := by
  induction vs generalizing x m with
  | nil => rfl
  | cons v vs ih =>
    rw [List.length_cons] at h
    rw [memWriteList, ih _ (by omega), memRead_memWrite_other (by omega)]

/-- Inside the written range a read gives the list's byte. -/
theorem memRead_memWriteList {x k : Nat} (vs : List Byte) {m : Memory} (hm : Memory.wf m = true) (h : k < vs.length) :
    memRead (x + k) (memWriteList x vs m) = vs[k] := by
  induction vs generalizing x k m with
  | nil => exact absurd h (by simp)
  | cons v vs ih =>
    rw [memWriteList]
    cases k with
    | zero => rw [memRead_memWriteList_other _ _ (by omega)]; exact memRead_memWrite_same x v hm
    | succ k =>
      have := ih (x := x + 1) (k := k) (wf_memWrite x v hm) (by simpa using h)
      rw [show x + (k + 1) = x + 1 + k by omega, this]
      simp

@[simp] theorem length_memReadList (a n : Nat) (m : Memory) : (memReadList a n m).length = n := by simp [memReadList]

theorem getElem_memReadList {a n k : Nat} (m : Memory) (h : k < (memReadList a n m).length) :
    (memReadList a n m)[k] = memRead (a + k) m := by simp [memReadList]

/-- Two lists of bytes read are equal when the bytes are. -/
theorem memReadList_congr {a n : Nat} {m m' : Memory} (h : ∀ k, k < n → memRead (a + k) m = memRead (a + k) m') :
    memReadList a n m = memReadList a n m' := by
  unfold memReadList
  exact List.map_congr_left fun k hk => h k (List.mem_range.mp hk)

/-- In canonical form memories that read alike are equal. -/
theorem memory_ext_rising {lo : Nat} {m m' : Memory} (hm : memRising lo m = true) (hm' : memRising lo m' = true)
    (h : ∀ a, memRead a m = memRead a m') : m = m' := by
  induction m generalizing lo m' with
  | nil =>
    cases m' with
    | nil => rfl
    | cons p rest =>
      obtain ⟨x, v⟩ := p
      simp only [memRising, Bool.and_eq_true, bne_iff_ne] at hm'
      have := h x
      simp only [memRead, if_pos] at this
      exact absurd this.symm hm'.1.2
  | cons p rest ih =>
    obtain ⟨x, v⟩ := p
    cases m' with
    | nil =>
      simp only [memRising, Bool.and_eq_true, bne_iff_ne] at hm
      have := h x
      simp only [memRead, if_pos] at this
      exact absurd this hm.1.2
    | cons q rest' =>
      obtain ⟨y, u⟩ := q
      simp only [memRising, Bool.and_eq_true, bne_iff_ne, decide_eq_true_eq] at hm hm'
      rcases Nat.lt_trichotomy x y with hxy | hxy | hxy
      · have := h x
        simp only [memRead, if_pos, if_neg (show x ≠ y by omega)] at this
        rw [memRead_below hm'.2 (by omega)] at this
        exact absurd this hm.1.2
      · subst hxy
        have hv := h x
        simp only [memRead, if_pos] at hv
        subst hv
        refine congrArg _ (ih hm.2 hm'.2 fun a => ?_)
        have := h a
        simp only [memRead] at this
        split at this
        · next ha => rw [memRead_below hm.2 (by omega), memRead_below hm'.2 (by omega)]
        · exact this
      · have := h y
        simp only [memRead, if_pos, if_neg (show y ≠ x by omega)] at this
        rw [memRead_below hm.2 (by omega)] at this
        exact absurd this.symm hm'.1.2

/-- Canonical memories are equal when every byte reads the same. -/
theorem memory_ext {m m' : Memory} (hm : Memory.wf m = true) (hm' : Memory.wf m' = true)
    (h : ∀ a, memRead a m = memRead a m') : m = m' := memory_ext_rising hm hm' h

end Sys2Proof.Machine
end

