-- ==== Sys2Proof/Laws/Prog.lean ====
section
/-!
SUPPORT. The laws of micro-step programs: what running a composed program does, and how a property that every micro-step keeps
is kept by the whole program and by every part of it.
-/

namespace Sys2Proof.Machine

/-! ## Running -/

@[simp] theorem Prog.run_ret (a : α) (b : Block) : (Prog.ret a).run b = (a, b) := rfl

@[simp] theorem Prog.run_act (f : Block → Block) (b : Block) : (Prog.act f).run b = ((), f b) := rfl

@[simp] theorem Prog.run_ask (g : Block → Nat) (b : Block) : (Prog.ask g).run b = (g b, b) := rfl

@[simp] theorem Prog.run_require (why : Block → Option Stop) (b : Block) : (Prog.require why).run b = ((), b) := rfl

@[simp] theorem Prog.run_micro (f : Block → Block × Nat) (k : Nat → Prog α) (b : Block) :
    (Prog.micro f k).run b = (k (f b).2).run (f b).1 := rfl

@[simp] theorem Prog.run_bind (p : Prog α) (q : α → Prog β) (b : Block) :
    (p.bind q).run b = (q (p.run b).1).run (p.run b).2 := by
  induction p generalizing b with
  | ret a => rfl
  | micro f k ih => exact ih _ _
  | need why k ih => exact ih b

@[simp] theorem Prog.run_andThen (p : Prog α) (q : Prog β) (b : Block) : (p.andThen q).run b = q.run (p.run b).2 :=
  Prog.run_bind p (fun _ => q) b

theorem Prog.run_forEach_nil (body : Nat → Prog Unit) (b : Block) : ((Prog.forEach body []).run b).2 = b := rfl

theorem Prog.run_forEach_cons (body : Nat → Prog Unit) (i : Nat) (is : List Nat) (b : Block) :
    ((Prog.forEach body (i :: is)).run b).2 = ((Prog.forEach body is).run ((body i).run b).2).2 := by
  simp [Prog.forEach]

/-- Bytes read one by one with nothing written in between are the bytes of the block. -/
theorem Prog.run_askBytes (g : Nat → Block → Byte) (n k : Nat) (b : Block) :
    (Prog.askBytes g n k).run b = ((List.range' k n).map fun i => g i b, b) := by
  induction n generalizing k with
  | zero => rfl
  | succ n ih => simp [Prog.askBytes, ih, List.range'_succ]

/-! ## Conditions on the way -/

@[simp] theorem Prog.attempt_ret (a : α) (b : Block) : (Prog.ret a).attempt b = .ok (a, b) := rfl

@[simp] theorem Prog.attempt_micro (f : Block → Block × Nat) (k : Nat → Prog α) (b : Block) :
    (Prog.micro f k).attempt b = (k (f b).2).attempt (f b).1 := rfl

@[simp] theorem Prog.attempt_act (f : Block → Block) (b : Block) : (Prog.act f).attempt b = .ok ((), f b) := rfl

@[simp] theorem Prog.attempt_ask (g : Block → Nat) (b : Block) : (Prog.ask g).attempt b = .ok (g b, b) := rfl

theorem Prog.attempt_need_none {why : Block → Option Stop} {b : Block} (k : Prog α) (h : why b = none) :
    (Prog.need why k).attempt b = k.attempt b := by simp [Prog.attempt, h]

theorem Prog.attempt_need_some {why : Block → Option Stop} {b : Block} {e : Stop} (k : Prog α) (h : why b = some e) :
    (Prog.need why k).attempt b = .error e := by simp [Prog.attempt, h]

/-- A composed program stops where its first part does, else it goes on as its second part. -/
@[simp] theorem Prog.attempt_bind (p : Prog α) (q : α → Prog β) (b : Block) :
    (p.bind q).attempt b = (p.attempt b).bind fun r => (q r.1).attempt r.2 := by
  induction p generalizing b with
  | ret a => rfl
  | micro f k ih => exact ih _ _
  | need why k ih =>
    cases h : why b with
    | none => simpa [Prog.bind, Prog.attempt, h] using ih b
    | some e => simp [Prog.bind, Prog.attempt, h, Except.bind]

@[simp] theorem Prog.attempt_andThen (p : Prog α) (q : Prog β) (b : Block) :
    (p.andThen q).attempt b = (p.attempt b).bind fun r => q.attempt r.2 := Prog.attempt_bind p (fun _ => q) b

/-- A program that does not stop on the way has run. -/
theorem Prog.run_of_attempt {p : Prog α} {b : Block} {r : α × Block} (h : p.attempt b = .ok r) : p.run b = r := by
  induction p generalizing b with
  | ret a => simpa using h
  | micro f k ih => exact ih _ h
  | need why k ih =>
    cases hw : why b with
    | none => exact ih (by simpa [Prog.attempt, hw] using h)
    | some e => simp [Prog.attempt, hw] at h

/-- A program without conditions. -/
def Prog.Total : Prog α → Prop
  | .ret _ => True
  | .micro _ k => ∀ n, (k n).Total
  | .need _ _ => False

theorem Prog.Total.ret (a : α) : (Prog.ret a).Total := True.intro

theorem Prog.Total.act (f : Block → Block) : (Prog.act f).Total := fun _ => True.intro

theorem Prog.Total.ask (g : Block → Nat) : (Prog.ask g).Total := fun _ => True.intro

theorem Prog.Total.bind {p : Prog α} {q : α → Prog β} (hp : p.Total) (hq : ∀ a, (q a).Total) : (p.bind q).Total := by
  induction p with
  | ret a => exact hq a
  | micro f k ih => exact fun n => ih n (hp n)
  | need why k ih => exact hp.elim

theorem Prog.Total.andThen {p : Prog α} {q : Prog β} (hp : p.Total) (hq : q.Total) : (p.andThen q).Total := hp.bind fun _ => hq

theorem Prog.Total.forEach {body : Nat → Prog Unit} (h : ∀ i, (body i).Total) (is : List Nat) : (Prog.forEach body is).Total := by
  induction is with
  | nil => exact True.intro
  | cons i is ih => exact (h i).andThen ih

theorem Prog.Total.askBytes (g : Nat → Block → Byte) (n k : Nat) : (Prog.askBytes g n k).Total := by
  induction n generalizing k with
  | zero => exact True.intro
  | succ n ih => exact (Prog.Total.ask _).bind fun v => (ih _).bind fun vs => Prog.Total.ret _

/-- A program without conditions never stops on the way. -/
theorem Prog.Total.attempt {p : Prog α} (hp : p.Total) (b : Block) : p.attempt b = .ok (p.run b) := by
  induction p generalizing b with
  | ret a => rfl
  | micro f k ih => exact ih _ (hp _) _
  | need why k ih => exact hp.elim

/-- Without conditions the two ways to perform a whole operation are one. -/
theorem Prog.Total.perform {p : Prog α} (hp : p.Total) (s : State) :
    Machine.perform p s = complete p s := by
  rw [Machine.perform, hp.attempt]
  rfl

theorem complete_next (p : Prog α) (s : State) : complete p s = .next (s.mapBlk fun b => (p.run b).2) := rfl

/-- A whole operation has a next state exactly when no condition on the way fails, and then it has run. -/
theorem perform_next {p : Prog α} {s t : State} (h : perform p s = .next t) :
    ∃ r, p.attempt s.blk = .ok r ∧ p.run s.blk = r ∧ t = { s with blk := r.2 } := by
  cases ha : p.attempt s.blk with
  | ok r => exact ⟨r, rfl, Prog.run_of_attempt ha, by simpa [perform, ha] using h.symm⟩
  | error e => cases e <;> simp [perform, ha, Stop.outcome] at h

/-! ## Following -/

@[simp] theorem Prog.follow_nil (p : Prog α) : p.follow [] = p := by cases p <;> rfl

@[simp] theorem Prog.follow_ret (a : α) (path : List Nat) : (Prog.ret a).follow path = .ret a := by cases path <;> rfl

@[simp] theorem Prog.follow_micro (f : Block → Block × Nat) (k : Nat → Prog α) (n : Nat) (path : List Nat) :
    (Prog.micro f k).follow (n :: path) = (k n).follow path := rfl

@[simp] theorem Prog.follow_need (why : Block → Option Stop) (k : Prog α) (n : Nat) (path : List Nat) :
    (Prog.need why k).follow (n :: path) = k.follow (n :: path) := rfl

theorem Prog.follow_append (p : Prog α) (xs ys : List Nat) : p.follow (xs ++ ys) = (p.follow xs).follow ys := by
  induction p generalizing xs with
  | ret a => simp
  | micro f k ih =>
    cases xs with
    | nil => rfl
    | cons x xs => exact ih x xs
  | need why k ih =>
    cases xs with
    | nil => rfl
    | cons x xs => exact ih (x :: xs)

/-- One micro-step and what follows it. -/
theorem Prog.follow_step {p : Prog α} {xs : List Nat} {f : Block → Block × Nat} {k : Nat → Prog α}
    (h : p.follow xs = .micro f k) (n : Nat) : p.follow (xs ++ [n]) = k n := by
  rw [Prog.follow_append, h, Prog.follow_micro, Prog.follow_nil]

/-! ## Properties every micro-step keeps -/

/-- Every micro-step of a program, whatever numbers came before it, keeps a property of the block. -/
def Prog.Keeps (P : Block → Prop) : Prog α → Prop
  | .ret _ => True
  | .micro f k => (∀ b, P b → P (f b).1) ∧ ∀ n, (k n).Keeps P
  | .need _ k => k.Keeps P

/-- Every value a program can end with has a property, where the numbers its micro-steps yield come from blocks with another. -/
def Prog.EndsFrom (P : Block → Prop) (Q : α → Prop) : Prog α → Prop
  | .ret a => Q a
  | .micro f k => ∀ b, P b → (k (f b).2).EndsFrom P Q
  | .need _ k => k.EndsFrom P Q

theorem Prog.EndsFrom.trivial (P : Block → Prop) (p : Prog α) : p.EndsFrom P fun _ => True := by
  induction p with
  | ret a => exact True.intro
  | micro f k ih => exact fun b _ => ih _
  | need why k ih => exact ih

theorem Prog.EndsFrom.bind {P : Block → Prop} {Q : α → Prop} {R : β → Prop} {p : Prog α} {q : α → Prog β}
    (hp : p.EndsFrom P Q) (hq : ∀ a, Q a → (q a).EndsFrom P R) : (p.bind q).EndsFrom P R := by
  induction p with
  | ret a => exact hq a hp
  | micro f k ih => exact fun b hb => ih _ (hp b hb)
  | need why k ih => exact ih hp

theorem Prog.Keeps.bind {P : Block → Prop} {p : Prog α} {q : α → Prog β} (hp : p.Keeps P)
    (hq : ∀ a, (q a).Keeps P) : (p.bind q).Keeps P := by
  induction p with
  | ret a => exact hq a
  | micro f k ih => exact ⟨hp.1, fun n => ih n (hp.2 n)⟩
  | need why k ih => exact ih hp

theorem Prog.Keeps.andThen {P : Block → Prop} {p : Prog α} {q : Prog β} (hp : p.Keeps P) (hq : q.Keeps P) :
    (p.andThen q).Keeps P := hp.bind fun _ => hq

theorem Prog.Keeps.act {P : Block → Prop} {f : Block → Block} (h : ∀ b, P b → P (f b)) : (Prog.act f).Keeps P :=
  ⟨h, fun _ => True.intro⟩

theorem Prog.Keeps.ask {P : Block → Prop} (g : Block → Nat) : (Prog.ask g).Keeps P := ⟨fun _ h => h, fun _ => True.intro⟩

theorem Prog.Keeps.require {P : Block → Prop} (why : Block → Option Stop) : (Prog.require why).Keeps P := True.intro

theorem Prog.Keeps.ret {P : Block → Prop} (a : α) : (Prog.ret a).Keeps P := True.intro

theorem Prog.Keeps.forEach {P : Block → Prop} {body : Nat → Prog Unit} (h : ∀ i, (body i).Keeps P) (is : List Nat) :
    (Prog.forEach body is).Keeps P := by
  induction is with
  | nil => exact True.intro
  | cons i is ih => exact (h i).andThen ih

theorem Prog.Keeps.askBytes {P : Block → Prop} (g : Nat → Block → Byte) (n k : Nat) : (Prog.askBytes g n k).Keeps P := by
  induction n generalizing k with
  | zero => exact True.intro
  | succ n ih => exact (Prog.Keeps.ask _).bind fun v => (ih _).bind fun vs => True.intro

/-- The whole program keeps the property. -/
theorem Prog.Keeps.run {P : Block → Prop} {p : Prog α} (hp : p.Keeps P) {b : Block} (h : P b) : P (p.run b).2 := by
  induction p generalizing b with
  | ret a => exact h
  | micro f k ih => exact ih _ (hp.2 _) (hp.1 b h)
  | need why k ih => exact ih hp h

/-- What is left of a program keeps the property too. -/
theorem Prog.Keeps.follow {P : Block → Prop} {p : Prog α} (hp : p.Keeps P) (path : List Nat) : (p.follow path).Keeps P := by
  induction p generalizing path with
  | ret a => simp [Prog.Keeps]
  | micro f k ih =>
    cases path with
    | nil => exact hp
    | cons n path => exact ih n (hp.2 n) path
  | need why k ih =>
    cases path with
    | nil => exact hp
    | cons n path => exact ih hp (n :: path)

/-- The first micro-step left keeps the property. -/
theorem Prog.Keeps.first {P : Block → Prop} {p : Prog α} (hp : p.Keeps P) {b : Block} {r : Block × Nat} (h : P b)
    (hr : p.first b = some r) : P r.1 := by
  induction p with
  | ret a => exact absurd hr (by simp [Prog.first])
  | micro f k =>
    rw [Prog.first, Option.some.injEq] at hr
    exact hr ▸ hp.1 b h
  | need why k ih => exact ih hp hr

/-! ## Properties kept on the numbers of good blocks -/

/-- What follows a program may use whatever its value is known to be. -/
theorem Prog.KeepsFrom.bindEnds {P : Block → Prop} {Q : α → Prop} {p : Prog α} {q : α → Prog β} (hp : p.KeepsFrom P)
    (he : p.EndsFrom P Q) (hq : ∀ a, Q a → (q a).KeepsFrom P) : (p.bind q).KeepsFrom P := by
  induction p with
  | ret a => exact hq a he
  | micro f k ih => exact fun b hb => ⟨(hp b hb).1, ih _ (hp b hb).2 (he b hb)⟩
  | need why k ih => exact ⟨hp.1, ih hp.2 he⟩

theorem Prog.KeepsFrom.bind {P : Block → Prop} {p : Prog α} {q : α → Prog β} (hp : p.KeepsFrom P)
    (hq : ∀ a, (q a).KeepsFrom P) : (p.bind q).KeepsFrom P := hp.bindEnds (Prog.EndsFrom.trivial P p) fun a _ => hq a

theorem Prog.KeepsFrom.andThen {P : Block → Prop} {p : Prog α} {q : Prog β} (hp : p.KeepsFrom P) (hq : q.KeepsFrom P) :
    (p.andThen q).KeepsFrom P := hp.bind fun _ => hq

theorem Prog.KeepsFrom.act {P : Block → Prop} {f : Block → Block} (h : ∀ b, P b → P (f b)) : (Prog.act f).KeepsFrom P :=
  fun b hb => ⟨h b hb, True.intro⟩

theorem Prog.KeepsFrom.ask {P : Block → Prop} (g : Block → Nat) : (Prog.ask g).KeepsFrom P := fun _ hb => ⟨hb, True.intro⟩

theorem Prog.KeepsFrom.require {P : Block → Prop} {why : Block → Option Stop} (h : ∀ b, P b → ∀ f, why b ≠ some (.fault f)) :
    (Prog.require why).KeepsFrom P := ⟨h, True.intro⟩

theorem Prog.KeepsFrom.forEach {P : Block → Prop} {body : Nat → Prog Unit} (h : ∀ i, (body i).KeepsFrom P) (is : List Nat) :
    (Prog.forEach body is).KeepsFrom P := by
  induction is with
  | nil => exact True.intro
  | cons i is ih => exact (h i).andThen ih

/-- A program that keeps a property whatever its numbers are, and has no conditions, keeps it on the numbers of good blocks. -/
theorem Prog.Keeps.keepsFrom {P : Block → Prop} {p : Prog α} (hp : p.Keeps P) (ht : p.Total) : p.KeepsFrom P := by
  induction p with
  | ret a => exact True.intro
  | micro f k ih => exact fun b hb => ⟨hp.1 b hb, ih _ (hp.2 _) (ht _)⟩
  | need why k ih => exact ht.elim

/-- After one more micro-step from a good block the rest still keeps the property, and the block has it. -/
theorem Prog.KeepsFrom.step {P : Block → Prop} {p : Prog α} (hp : p.KeepsFrom P) {b : Block} (hb : P b) {r : Block × Nat}
    (hr : p.first b = some r) : P r.1 ∧ (p.follow [r.2]).KeepsFrom P := by
  induction p with
  | ret a => exact absurd hr (by simp [Prog.first])
  | micro f k =>
    rw [Prog.first, Option.some.injEq] at hr
    rw [Prog.follow_micro, Prog.follow_nil]
    exact hr ▸ hp b hb
  | need why k ih => exact ih hp.2 hr

end Sys2Proof.Machine
end

