-- ==== Sys2Proof/Laws/State.lean ====
section
/-!
SUPPORT. One lemma per field per update of the state, true by unfolding the update.
-/

namespace Sys2Proof.Machine

@[simp] theorem mapBlk_boot (f : Block → Block) (s : State) : (s.mapBlk f).boot = s.boot := rfl
@[simp] theorem mapBlk_task (f : Block → Block) (s : State) : (s.mapBlk f).task = s.task := rfl
@[simp] theorem mapBlk_script (f : Block → Block) (s : State) : (s.mapBlk f).script = s.script := rfl
@[simp] theorem mapBlk_clock (f : Block → Block) (s : State) : (s.mapBlk f).clock = s.clock := rfl
@[simp] theorem mapBlk_blk (f : Block → Block) (s : State) : (s.mapBlk f).blk = f s.blk := rfl
theorem mapBlk_mapBlk (f g : Block → Block) (s : State) : (s.mapBlk f).mapBlk g = s.mapBlk fun b => g (f b) := rfl

@[simp] theorem setPhase_cfg (p : BitVec 4) (b : Block) : (setPhase p b).cfg = b.cfg := rfl
@[simp] theorem setPhase_record (p : BitVec 4) (b : Block) : (setPhase p b).record = b.record := rfl
@[simp] theorem setPhase_phase (p : BitVec 4) (b : Block) : (setPhase p b).phase = p := rfl
@[simp] theorem setPhase_sch (p : BitVec 4) (b : Block) : (setPhase p b).sch = b.sch := rfl
@[simp] theorem setPhase_frm (p : BitVec 4) (b : Block) : (setPhase p b).frm = b.frm := rfl
@[simp] theorem setPhase_hdg (p : BitVec 4) (b : Block) : (setPhase p b).hdg = b.hdg := rfl
@[simp] theorem setPhase_enc (p : BitVec 4) (b : Block) : (setPhase p b).enc = b.enc := rfl
@[simp] theorem setPhase_act (p : BitVec 4) (b : Block) : (setPhase p b).act = b.act := rfl
@[simp] theorem setPhase_steer (p : BitVec 4) (b : Block) : (setPhase p b).steer = b.steer := rfl
@[simp] theorem setPhase_throttle (p : BitVec 4) (b : Block) : (setPhase p b).throttle = b.throttle := rfl
@[simp] theorem setPhase_sto (p : BitVec 4) (b : Block) : (setPhase p b).sto = b.sto := rfl
@[simp] theorem setPhase_irq (p : BitVec 4) (b : Block) : (setPhase p b).irq = b.irq := rfl
@[simp] theorem setPhase_mem (p : BitVec 4) (b : Block) : (setPhase p b).mem = b.mem := rfl
@[simp] theorem setPhase_env (p : BitVec 4) (b : Block) : (setPhase p b).env = b.env := rfl
@[simp] theorem setPhase_ret (p : BitVec 4) (b : Block) : (setPhase p b).ret = b.ret := rfl
@[simp] theorem setPhase_fresh (p : BitVec 4) (b : Block) : (setPhase p b).fresh = b.fresh := rfl

@[simp] theorem setRet_cfg (r : Result) (b : Block) : (setRet r b).cfg = b.cfg := rfl
@[simp] theorem setRet_record (r : Result) (b : Block) : (setRet r b).record = b.record := rfl
@[simp] theorem setRet_phase (r : Result) (b : Block) : (setRet r b).phase = b.phase := rfl
@[simp] theorem setRet_sch (r : Result) (b : Block) : (setRet r b).sch = b.sch := rfl
@[simp] theorem setRet_frm (r : Result) (b : Block) : (setRet r b).frm = b.frm := rfl
@[simp] theorem setRet_hdg (r : Result) (b : Block) : (setRet r b).hdg = b.hdg := rfl
@[simp] theorem setRet_enc (r : Result) (b : Block) : (setRet r b).enc = b.enc := rfl
@[simp] theorem setRet_act (r : Result) (b : Block) : (setRet r b).act = b.act := rfl
@[simp] theorem setRet_steer (r : Result) (b : Block) : (setRet r b).steer = b.steer := rfl
@[simp] theorem setRet_throttle (r : Result) (b : Block) : (setRet r b).throttle = b.throttle := rfl
@[simp] theorem setRet_sto (r : Result) (b : Block) : (setRet r b).sto = b.sto := rfl
@[simp] theorem setRet_irq (r : Result) (b : Block) : (setRet r b).irq = b.irq := rfl
@[simp] theorem setRet_mem (r : Result) (b : Block) : (setRet r b).mem = b.mem := rfl
@[simp] theorem setRet_env (r : Result) (b : Block) : (setRet r b).env = b.env := rfl
@[simp] theorem setRet_ret (r : Result) (b : Block) : (setRet r b).ret = r := rfl
@[simp] theorem setRet_fresh (r : Result) (b : Block) : (setRet r b).fresh = b.fresh := rfl

@[simp] theorem orStatus_cfg (n : Nat) (b : Block) : (orStatus n b).cfg = b.cfg := rfl
@[simp] theorem orStatus_record (n : Nat) (b : Block) : (orStatus n b).record = { b.record with status := b.record.status ||| statusBit n } := rfl
@[simp] theorem orStatus_phase (n : Nat) (b : Block) : (orStatus n b).phase = b.phase := rfl
@[simp] theorem orStatus_sch (n : Nat) (b : Block) : (orStatus n b).sch = b.sch := rfl
@[simp] theorem orStatus_frm (n : Nat) (b : Block) : (orStatus n b).frm = b.frm := rfl
@[simp] theorem orStatus_hdg (n : Nat) (b : Block) : (orStatus n b).hdg = b.hdg := rfl
@[simp] theorem orStatus_enc (n : Nat) (b : Block) : (orStatus n b).enc = b.enc := rfl
@[simp] theorem orStatus_act (n : Nat) (b : Block) : (orStatus n b).act = b.act := rfl
@[simp] theorem orStatus_steer (n : Nat) (b : Block) : (orStatus n b).steer = b.steer := rfl
@[simp] theorem orStatus_throttle (n : Nat) (b : Block) : (orStatus n b).throttle = b.throttle := rfl
@[simp] theorem orStatus_sto (n : Nat) (b : Block) : (orStatus n b).sto = b.sto := rfl
@[simp] theorem orStatus_irq (n : Nat) (b : Block) : (orStatus n b).irq = b.irq := rfl
@[simp] theorem orStatus_mem (n : Nat) (b : Block) : (orStatus n b).mem = b.mem := rfl
@[simp] theorem orStatus_env (n : Nat) (b : Block) : (orStatus n b).env = b.env := rfl
@[simp] theorem orStatus_ret (n : Nat) (b : Block) : (orStatus n b).ret = b.ret := rfl
@[simp] theorem orStatus_fresh (n : Nat) (b : Block) : (orStatus n b).fresh = b.fresh := rfl

@[simp] theorem setSlot_cfg (i : Nat) (st : SlotStatus) (b : Block) : (setSlot i st b).cfg = b.cfg := rfl
@[simp] theorem setSlot_record (i : Nat) (st : SlotStatus) (b : Block) : (setSlot i st b).record = b.record := rfl
@[simp] theorem setSlot_phase (i : Nat) (st : SlotStatus) (b : Block) : (setSlot i st b).phase = b.phase := rfl
@[simp] theorem setSlot_sch (i : Nat) (st : SlotStatus) (b : Block) : (setSlot i st b).sch = b.sch := rfl
@[simp] theorem setSlot_frm (i : Nat) (st : SlotStatus) (b : Block) : (setSlot i st b).frm = { b.frm with slots := b.frm.slots.set i st } := rfl
@[simp] theorem setSlot_hdg (i : Nat) (st : SlotStatus) (b : Block) : (setSlot i st b).hdg = b.hdg := rfl
@[simp] theorem setSlot_enc (i : Nat) (st : SlotStatus) (b : Block) : (setSlot i st b).enc = b.enc := rfl
@[simp] theorem setSlot_act (i : Nat) (st : SlotStatus) (b : Block) : (setSlot i st b).act = b.act := rfl
@[simp] theorem setSlot_steer (i : Nat) (st : SlotStatus) (b : Block) : (setSlot i st b).steer = b.steer := rfl
@[simp] theorem setSlot_throttle (i : Nat) (st : SlotStatus) (b : Block) : (setSlot i st b).throttle = b.throttle := rfl
@[simp] theorem setSlot_sto (i : Nat) (st : SlotStatus) (b : Block) : (setSlot i st b).sto = b.sto := rfl
@[simp] theorem setSlot_irq (i : Nat) (st : SlotStatus) (b : Block) : (setSlot i st b).irq = b.irq := rfl
@[simp] theorem setSlot_mem (i : Nat) (st : SlotStatus) (b : Block) : (setSlot i st b).mem = b.mem := rfl
@[simp] theorem setSlot_env (i : Nat) (st : SlotStatus) (b : Block) : (setSlot i st b).env = b.env := rfl
@[simp] theorem setSlot_ret (i : Nat) (st : SlotStatus) (b : Block) : (setSlot i st b).ret = b.ret := rfl
@[simp] theorem setSlot_fresh (i : Nat) (st : SlotStatus) (b : Block) : (setSlot i st b).fresh = b.fresh := rfl

@[simp] theorem issueTw_cfg (op : TwOp) (b : Block) : (issueTw op b).cfg = b.cfg := rfl
@[simp] theorem issueTw_record (op : TwOp) (b : Block) : (issueTw op b).record = b.record := rfl
@[simp] theorem issueTw_phase (op : TwOp) (b : Block) : (issueTw op b).phase = b.phase := rfl
@[simp] theorem issueTw_sch (op : TwOp) (b : Block) : (issueTw op b).sch = b.sch := rfl
@[simp] theorem issueTw_frm (op : TwOp) (b : Block) : (issueTw op b).frm = b.frm := rfl
@[simp] theorem issueTw_hdg (op : TwOp) (b : Block) : (issueTw op b).hdg = b.hdg := rfl
@[simp] theorem issueTw_enc (op : TwOp) (b : Block) : (issueTw op b).enc = b.enc := rfl
@[simp] theorem issueTw_act (op : TwOp) (b : Block) : (issueTw op b).act = b.act := rfl
@[simp] theorem issueTw_steer (op : TwOp) (b : Block) : (issueTw op b).steer = b.steer := rfl
@[simp] theorem issueTw_throttle (op : TwOp) (b : Block) : (issueTw op b).throttle = b.throttle := rfl
@[simp] theorem issueTw_sto (op : TwOp) (b : Block) : (issueTw op b).sto = b.sto := rfl
@[simp] theorem issueTw_irq (op : TwOp) (b : Block) : (issueTw op b).irq = b.irq := rfl
@[simp] theorem issueTw_mem (op : TwOp) (b : Block) : (issueTw op b).mem = b.mem := rfl
@[simp] theorem issueTw_env (op : TwOp) (b : Block) : (issueTw op b).env = { b.env with twIssued := op :: b.env.twIssued } := rfl
@[simp] theorem issueTw_ret (op : TwOp) (b : Block) : (issueTw op b).ret = b.ret := rfl
@[simp] theorem issueTw_fresh (op : TwOp) (b : Block) : (issueTw op b).fresh = b.fresh := rfl

@[simp] theorem consumeEvent_cfg (e : Event) (b : Block) : (consumeEvent e b).cfg = b.cfg := rfl
@[simp] theorem consumeEvent_record (e : Event) (b : Block) : (consumeEvent e b).record = b.record := rfl
@[simp] theorem consumeEvent_phase (e : Event) (b : Block) : (consumeEvent e b).phase = b.phase := rfl
@[simp] theorem consumeEvent_sch (e : Event) (b : Block) : (consumeEvent e b).sch = b.sch := rfl
@[simp] theorem consumeEvent_frm (e : Event) (b : Block) : (consumeEvent e b).frm = b.frm := rfl
@[simp] theorem consumeEvent_hdg (e : Event) (b : Block) : (consumeEvent e b).hdg = b.hdg := rfl
@[simp] theorem consumeEvent_enc (e : Event) (b : Block) : (consumeEvent e b).enc = b.enc := rfl
@[simp] theorem consumeEvent_act (e : Event) (b : Block) : (consumeEvent e b).act = b.act := rfl
@[simp] theorem consumeEvent_steer (e : Event) (b : Block) : (consumeEvent e b).steer = b.steer := rfl
@[simp] theorem consumeEvent_throttle (e : Event) (b : Block) : (consumeEvent e b).throttle = b.throttle := rfl
@[simp] theorem consumeEvent_sto (e : Event) (b : Block) : (consumeEvent e b).sto = b.sto := rfl
@[simp] theorem consumeEvent_irq (e : Event) (b : Block) : (consumeEvent e b).irq = { b.irq with pending := b.irq.pending.erase e } := rfl
@[simp] theorem consumeEvent_mem (e : Event) (b : Block) : (consumeEvent e b).mem = b.mem := rfl
@[simp] theorem consumeEvent_env (e : Event) (b : Block) : (consumeEvent e b).env = b.env := rfl
@[simp] theorem consumeEvent_ret (e : Event) (b : Block) : (consumeEvent e b).ret = b.ret := rfl
@[simp] theorem consumeEvent_fresh (e : Event) (b : Block) : (consumeEvent e b).fresh = b.fresh := rfl

@[simp] theorem cancelEvent_cfg (e : Event) (b : Block) : (cancelEvent e b).cfg = b.cfg := rfl
@[simp] theorem cancelEvent_record (e : Event) (b : Block) : (cancelEvent e b).record = b.record := rfl
@[simp] theorem cancelEvent_phase (e : Event) (b : Block) : (cancelEvent e b).phase = b.phase := rfl
@[simp] theorem cancelEvent_sch (e : Event) (b : Block) : (cancelEvent e b).sch = b.sch := rfl
@[simp] theorem cancelEvent_frm (e : Event) (b : Block) : (cancelEvent e b).frm = b.frm := rfl
@[simp] theorem cancelEvent_hdg (e : Event) (b : Block) : (cancelEvent e b).hdg = b.hdg := rfl
@[simp] theorem cancelEvent_enc (e : Event) (b : Block) : (cancelEvent e b).enc = b.enc := rfl
@[simp] theorem cancelEvent_act (e : Event) (b : Block) : (cancelEvent e b).act = b.act := rfl
@[simp] theorem cancelEvent_steer (e : Event) (b : Block) : (cancelEvent e b).steer = b.steer := rfl
@[simp] theorem cancelEvent_throttle (e : Event) (b : Block) : (cancelEvent e b).throttle = b.throttle := rfl
@[simp] theorem cancelEvent_sto (e : Event) (b : Block) : (cancelEvent e b).sto = b.sto := rfl
@[simp] theorem cancelEvent_irq (e : Event) (b : Block) : (cancelEvent e b).irq = { b.irq with pending := b.irq.pending.filter (· != e) } := rfl
@[simp] theorem cancelEvent_mem (e : Event) (b : Block) : (cancelEvent e b).mem = b.mem := rfl
@[simp] theorem cancelEvent_env (e : Event) (b : Block) : (cancelEvent e b).env = b.env := rfl
@[simp] theorem cancelEvent_ret (e : Event) (b : Block) : (cancelEvent e b).ret = b.ret := rfl
@[simp] theorem cancelEvent_fresh (e : Event) (b : Block) : (cancelEvent e b).fresh = b.fresh := rfl

@[simp] theorem setDrive_cfg (d : DriveState) (b : Block) : (setDrive d b).cfg = b.cfg := rfl
@[simp] theorem setDrive_record (d : DriveState) (b : Block) : (setDrive d b).record = b.record := rfl
@[simp] theorem setDrive_phase (d : DriveState) (b : Block) : (setDrive d b).phase = b.phase := rfl
@[simp] theorem setDrive_sch (d : DriveState) (b : Block) : (setDrive d b).sch = b.sch := rfl
@[simp] theorem setDrive_frm (d : DriveState) (b : Block) : (setDrive d b).frm = b.frm := rfl
@[simp] theorem setDrive_hdg (d : DriveState) (b : Block) : (setDrive d b).hdg = b.hdg := rfl
@[simp] theorem setDrive_enc (d : DriveState) (b : Block) : (setDrive d b).enc = b.enc := rfl
@[simp] theorem setDrive_act (d : DriveState) (b : Block) : (setDrive d b).act = { b.act with drive := d } := rfl
@[simp] theorem setDrive_steer (d : DriveState) (b : Block) : (setDrive d b).steer = b.steer := rfl
@[simp] theorem setDrive_throttle (d : DriveState) (b : Block) : (setDrive d b).throttle = b.throttle := rfl
@[simp] theorem setDrive_sto (d : DriveState) (b : Block) : (setDrive d b).sto = b.sto := rfl
@[simp] theorem setDrive_irq (d : DriveState) (b : Block) : (setDrive d b).irq = b.irq := rfl
@[simp] theorem setDrive_mem (d : DriveState) (b : Block) : (setDrive d b).mem = b.mem := rfl
@[simp] theorem setDrive_env (d : DriveState) (b : Block) : (setDrive d b).env = b.env := rfl
@[simp] theorem setDrive_ret (d : DriveState) (b : Block) : (setDrive d b).ret = b.ret := rfl
@[simp] theorem setDrive_fresh (d : DriveState) (b : Block) : (setDrive d b).fresh = b.fresh := rfl

@[simp] theorem setBusy_cfg (v : Bool) (b : Block) : (setBusy v b).cfg = b.cfg := rfl
@[simp] theorem setBusy_record (v : Bool) (b : Block) : (setBusy v b).record = b.record := rfl
@[simp] theorem setBusy_phase (v : Bool) (b : Block) : (setBusy v b).phase = b.phase := rfl
@[simp] theorem setBusy_sch (v : Bool) (b : Block) : (setBusy v b).sch = b.sch := rfl
@[simp] theorem setBusy_frm (v : Bool) (b : Block) : (setBusy v b).frm = b.frm := rfl
@[simp] theorem setBusy_hdg (v : Bool) (b : Block) : (setBusy v b).hdg = { b.hdg with busy := v } := rfl
@[simp] theorem setBusy_enc (v : Bool) (b : Block) : (setBusy v b).enc = b.enc := rfl
@[simp] theorem setBusy_act (v : Bool) (b : Block) : (setBusy v b).act = b.act := rfl
@[simp] theorem setBusy_steer (v : Bool) (b : Block) : (setBusy v b).steer = b.steer := rfl
@[simp] theorem setBusy_throttle (v : Bool) (b : Block) : (setBusy v b).throttle = b.throttle := rfl
@[simp] theorem setBusy_sto (v : Bool) (b : Block) : (setBusy v b).sto = b.sto := rfl
@[simp] theorem setBusy_irq (v : Bool) (b : Block) : (setBusy v b).irq = b.irq := rfl
@[simp] theorem setBusy_mem (v : Bool) (b : Block) : (setBusy v b).mem = b.mem := rfl
@[simp] theorem setBusy_env (v : Bool) (b : Block) : (setBusy v b).env = b.env := rfl
@[simp] theorem setBusy_ret (v : Bool) (b : Block) : (setBusy v b).ret = b.ret := rfl
@[simp] theorem setBusy_fresh (v : Bool) (b : Block) : (setBusy v b).fresh = b.fresh := rfl

@[simp] theorem setHState_cfg (st : HState) (b : Block) : (setHState st b).cfg = b.cfg := rfl
@[simp] theorem setHState_record (st : HState) (b : Block) : (setHState st b).record = b.record := rfl
@[simp] theorem setHState_phase (st : HState) (b : Block) : (setHState st b).phase = b.phase := rfl
@[simp] theorem setHState_sch (st : HState) (b : Block) : (setHState st b).sch = b.sch := rfl
@[simp] theorem setHState_frm (st : HState) (b : Block) : (setHState st b).frm = b.frm := rfl
@[simp] theorem setHState_hdg (st : HState) (b : Block) : (setHState st b).hdg = { b.hdg with state := st } := rfl
@[simp] theorem setHState_enc (st : HState) (b : Block) : (setHState st b).enc = b.enc := rfl
@[simp] theorem setHState_act (st : HState) (b : Block) : (setHState st b).act = b.act := rfl
@[simp] theorem setHState_steer (st : HState) (b : Block) : (setHState st b).steer = b.steer := rfl
@[simp] theorem setHState_throttle (st : HState) (b : Block) : (setHState st b).throttle = b.throttle := rfl
@[simp] theorem setHState_sto (st : HState) (b : Block) : (setHState st b).sto = b.sto := rfl
@[simp] theorem setHState_irq (st : HState) (b : Block) : (setHState st b).irq = b.irq := rfl
@[simp] theorem setHState_mem (st : HState) (b : Block) : (setHState st b).mem = b.mem := rfl
@[simp] theorem setHState_env (st : HState) (b : Block) : (setHState st b).env = b.env := rfl
@[simp] theorem setHState_ret (st : HState) (b : Block) : (setHState st b).ret = b.ret := rfl
@[simp] theorem setHState_fresh (st : HState) (b : Block) : (setHState st b).fresh = b.fresh := rfl

@[simp] theorem setActive_cfg (j : Fin 2) (b : Block) : (setActive j b).cfg = b.cfg := rfl
@[simp] theorem setActive_record (j : Fin 2) (b : Block) : (setActive j b).record = b.record := rfl
@[simp] theorem setActive_phase (j : Fin 2) (b : Block) : (setActive j b).phase = b.phase := rfl
@[simp] theorem setActive_sch (j : Fin 2) (b : Block) : (setActive j b).sch = b.sch := rfl
@[simp] theorem setActive_frm (j : Fin 2) (b : Block) : (setActive j b).frm = b.frm := rfl
@[simp] theorem setActive_hdg (j : Fin 2) (b : Block) : (setActive j b).hdg = b.hdg := rfl
@[simp] theorem setActive_enc (j : Fin 2) (b : Block) : (setActive j b).enc = { b.enc with active := j } := rfl
@[simp] theorem setActive_act (j : Fin 2) (b : Block) : (setActive j b).act = b.act := rfl
@[simp] theorem setActive_steer (j : Fin 2) (b : Block) : (setActive j b).steer = b.steer := rfl
@[simp] theorem setActive_throttle (j : Fin 2) (b : Block) : (setActive j b).throttle = b.throttle := rfl
@[simp] theorem setActive_sto (j : Fin 2) (b : Block) : (setActive j b).sto = b.sto := rfl
@[simp] theorem setActive_irq (j : Fin 2) (b : Block) : (setActive j b).irq = b.irq := rfl
@[simp] theorem setActive_mem (j : Fin 2) (b : Block) : (setActive j b).mem = b.mem := rfl
@[simp] theorem setActive_env (j : Fin 2) (b : Block) : (setActive j b).env = b.env := rfl
@[simp] theorem setActive_ret (j : Fin 2) (b : Block) : (setActive j b).ret = b.ret := rfl
@[simp] theorem setActive_fresh (j : Fin 2) (b : Block) : (setActive j b).fresh = b.fresh := rfl

@[simp] theorem clearError_cfg (j : Fin 2) (b : Block) : (clearError j b).cfg = b.cfg := rfl
@[simp] theorem clearError_record (j : Fin 2) (b : Block) : (clearError j b).record = b.record := rfl
@[simp] theorem clearError_phase (j : Fin 2) (b : Block) : (clearError j b).phase = b.phase := rfl
@[simp] theorem clearError_sch (j : Fin 2) (b : Block) : (clearError j b).sch = b.sch := rfl
@[simp] theorem clearError_frm (j : Fin 2) (b : Block) : (clearError j b).frm = b.frm := rfl
@[simp] theorem clearError_hdg (j : Fin 2) (b : Block) : (clearError j b).hdg = b.hdg := rfl
@[simp] theorem clearError_enc (j : Fin 2) (b : Block) : (clearError j b).enc = setCell j { getCell j b.enc with error := false } b.enc := rfl
@[simp] theorem clearError_act (j : Fin 2) (b : Block) : (clearError j b).act = b.act := rfl
@[simp] theorem clearError_steer (j : Fin 2) (b : Block) : (clearError j b).steer = b.steer := rfl
@[simp] theorem clearError_throttle (j : Fin 2) (b : Block) : (clearError j b).throttle = b.throttle := rfl
@[simp] theorem clearError_sto (j : Fin 2) (b : Block) : (clearError j b).sto = b.sto := rfl
@[simp] theorem clearError_irq (j : Fin 2) (b : Block) : (clearError j b).irq = b.irq := rfl
@[simp] theorem clearError_mem (j : Fin 2) (b : Block) : (clearError j b).mem = b.mem := rfl
@[simp] theorem clearError_env (j : Fin 2) (b : Block) : (clearError j b).env = b.env := rfl
@[simp] theorem clearError_ret (j : Fin 2) (b : Block) : (clearError j b).ret = b.ret := rfl
@[simp] theorem clearError_fresh (j : Fin 2) (b : Block) : (clearError j b).fresh = b.fresh := rfl

@[simp] theorem clearOverrun_cfg (b : Block) : (clearOverrun b).cfg = b.cfg := rfl
@[simp] theorem clearOverrun_record (b : Block) : (clearOverrun b).record = b.record := rfl
@[simp] theorem clearOverrun_phase (b : Block) : (clearOverrun b).phase = b.phase := rfl
@[simp] theorem clearOverrun_sch (b : Block) : (clearOverrun b).sch = { b.sch with overrun := false } := rfl
@[simp] theorem clearOverrun_frm (b : Block) : (clearOverrun b).frm = b.frm := rfl
@[simp] theorem clearOverrun_hdg (b : Block) : (clearOverrun b).hdg = b.hdg := rfl
@[simp] theorem clearOverrun_enc (b : Block) : (clearOverrun b).enc = b.enc := rfl
@[simp] theorem clearOverrun_act (b : Block) : (clearOverrun b).act = b.act := rfl
@[simp] theorem clearOverrun_steer (b : Block) : (clearOverrun b).steer = b.steer := rfl
@[simp] theorem clearOverrun_throttle (b : Block) : (clearOverrun b).throttle = b.throttle := rfl
@[simp] theorem clearOverrun_sto (b : Block) : (clearOverrun b).sto = b.sto := rfl
@[simp] theorem clearOverrun_irq (b : Block) : (clearOverrun b).irq = b.irq := rfl
@[simp] theorem clearOverrun_mem (b : Block) : (clearOverrun b).mem = b.mem := rfl
@[simp] theorem clearOverrun_env (b : Block) : (clearOverrun b).env = b.env := rfl
@[simp] theorem clearOverrun_ret (b : Block) : (clearOverrun b).ret = b.ret := rfl
@[simp] theorem clearOverrun_fresh (b : Block) : (clearOverrun b).fresh = b.fresh := rfl

@[simp] theorem storeRaw_cfg (i k : Nat) (v : Byte) (b : Block) : (storeRaw i k v b).cfg = b.cfg := rfl
@[simp] theorem storeRaw_record (i k : Nat) (v : Byte) (b : Block) : (storeRaw i k v b).record = b.record := rfl
@[simp] theorem storeRaw_phase (i k : Nat) (v : Byte) (b : Block) : (storeRaw i k v b).phase = b.phase := rfl
@[simp] theorem storeRaw_sch (i k : Nat) (v : Byte) (b : Block) : (storeRaw i k v b).sch = b.sch := rfl
@[simp] theorem storeRaw_frm (i k : Nat) (v : Byte) (b : Block) : (storeRaw i k v b).frm = b.frm := rfl
@[simp] theorem storeRaw_hdg (i k : Nat) (v : Byte) (b : Block) : (storeRaw i k v b).hdg = b.hdg := rfl
@[simp] theorem storeRaw_enc (i k : Nat) (v : Byte) (b : Block) : (storeRaw i k v b).enc = b.enc := rfl
@[simp] theorem storeRaw_act (i k : Nat) (v : Byte) (b : Block) : (storeRaw i k v b).act = b.act := rfl
@[simp] theorem storeRaw_steer (i k : Nat) (v : Byte) (b : Block) : (storeRaw i k v b).steer = b.steer := rfl
@[simp] theorem storeRaw_throttle (i k : Nat) (v : Byte) (b : Block) : (storeRaw i k v b).throttle = b.throttle := rfl
@[simp] theorem storeRaw_sto (i k : Nat) (v : Byte) (b : Block) : (storeRaw i k v b).sto = b.sto := rfl
@[simp] theorem storeRaw_irq (i k : Nat) (v : Byte) (b : Block) : (storeRaw i k v b).irq = b.irq := rfl
@[simp] theorem storeRaw_mem (i k : Nat) (v : Byte) (b : Block) : (storeRaw i k v b).mem = memWrite (rawAddr b.cfg i k) v b.mem := rfl
@[simp] theorem storeRaw_env (i k : Nat) (v : Byte) (b : Block) : (storeRaw i k v b).env = b.env := rfl
@[simp] theorem storeRaw_ret (i k : Nat) (v : Byte) (b : Block) : (storeRaw i k v b).ret = b.ret := rfl
@[simp] theorem storeRaw_fresh (i k : Nat) (v : Byte) (b : Block) : (storeRaw i k v b).fresh = b.fresh := rfl

@[simp] theorem setCsdByte_cfg (i : Nat) (v : Byte) (b : Block) : (setCsdByte i v b).cfg = b.cfg := rfl
@[simp] theorem setCsdByte_record (i : Nat) (v : Byte) (b : Block) : (setCsdByte i v b).record = b.record := rfl
@[simp] theorem setCsdByte_phase (i : Nat) (v : Byte) (b : Block) : (setCsdByte i v b).phase = b.phase := rfl
@[simp] theorem setCsdByte_sch (i : Nat) (v : Byte) (b : Block) : (setCsdByte i v b).sch = b.sch := rfl
@[simp] theorem setCsdByte_frm (i : Nat) (v : Byte) (b : Block) : (setCsdByte i v b).frm = b.frm := rfl
@[simp] theorem setCsdByte_hdg (i : Nat) (v : Byte) (b : Block) : (setCsdByte i v b).hdg = b.hdg := rfl
@[simp] theorem setCsdByte_enc (i : Nat) (v : Byte) (b : Block) : (setCsdByte i v b).enc = b.enc := rfl
@[simp] theorem setCsdByte_act (i : Nat) (v : Byte) (b : Block) : (setCsdByte i v b).act = b.act := rfl
@[simp] theorem setCsdByte_steer (i : Nat) (v : Byte) (b : Block) : (setCsdByte i v b).steer = b.steer := rfl
@[simp] theorem setCsdByte_throttle (i : Nat) (v : Byte) (b : Block) : (setCsdByte i v b).throttle = b.throttle := rfl
@[simp] theorem setCsdByte_sto (i : Nat) (v : Byte) (b : Block) : (setCsdByte i v b).sto = { b.sto with csd := b.sto.csd.set i v } := rfl
@[simp] theorem setCsdByte_irq (i : Nat) (v : Byte) (b : Block) : (setCsdByte i v b).irq = b.irq := rfl
@[simp] theorem setCsdByte_mem (i : Nat) (v : Byte) (b : Block) : (setCsdByte i v b).mem = b.mem := rfl
@[simp] theorem setCsdByte_env (i : Nat) (v : Byte) (b : Block) : (setCsdByte i v b).env = b.env := rfl
@[simp] theorem setCsdByte_ret (i : Nat) (v : Byte) (b : Block) : (setCsdByte i v b).ret = b.ret := rfl
@[simp] theorem setCsdByte_fresh (i : Nat) (v : Byte) (b : Block) : (setCsdByte i v b).fresh = b.fresh := rfl

@[simp] theorem setLeadByte_cfg (i : Nat) (v : Byte) (b : Block) : (setLeadByte i v b).cfg = b.cfg := rfl
@[simp] theorem setLeadByte_record (i : Nat) (v : Byte) (b : Block) : (setLeadByte i v b).record = b.record := rfl
@[simp] theorem setLeadByte_phase (i : Nat) (v : Byte) (b : Block) : (setLeadByte i v b).phase = b.phase := rfl
@[simp] theorem setLeadByte_sch (i : Nat) (v : Byte) (b : Block) : (setLeadByte i v b).sch = b.sch := rfl
@[simp] theorem setLeadByte_frm (i : Nat) (v : Byte) (b : Block) : (setLeadByte i v b).frm = b.frm := rfl
@[simp] theorem setLeadByte_hdg (i : Nat) (v : Byte) (b : Block) : (setLeadByte i v b).hdg = b.hdg := rfl
@[simp] theorem setLeadByte_enc (i : Nat) (v : Byte) (b : Block) : (setLeadByte i v b).enc = b.enc := rfl
@[simp] theorem setLeadByte_act (i : Nat) (v : Byte) (b : Block) : (setLeadByte i v b).act = b.act := rfl
@[simp] theorem setLeadByte_steer (i : Nat) (v : Byte) (b : Block) : (setLeadByte i v b).steer = b.steer := rfl
@[simp] theorem setLeadByte_throttle (i : Nat) (v : Byte) (b : Block) : (setLeadByte i v b).throttle = b.throttle := rfl
@[simp] theorem setLeadByte_sto (i : Nat) (v : Byte) (b : Block) : (setLeadByte i v b).sto = { b.sto with lead := b.sto.lead.set i v } := rfl
@[simp] theorem setLeadByte_irq (i : Nat) (v : Byte) (b : Block) : (setLeadByte i v b).irq = b.irq := rfl
@[simp] theorem setLeadByte_mem (i : Nat) (v : Byte) (b : Block) : (setLeadByte i v b).mem = b.mem := rfl
@[simp] theorem setLeadByte_env (i : Nat) (v : Byte) (b : Block) : (setLeadByte i v b).env = b.env := rfl
@[simp] theorem setLeadByte_ret (i : Nat) (v : Byte) (b : Block) : (setLeadByte i v b).ret = b.ret := rfl
@[simp] theorem setLeadByte_fresh (i : Nat) (v : Byte) (b : Block) : (setLeadByte i v b).fresh = b.fresh := rfl

@[simp] theorem forgetCsd_cfg (b : Block) : (forgetCsd b).cfg = b.cfg := rfl
@[simp] theorem forgetCsd_record (b : Block) : (forgetCsd b).record = b.record := rfl
@[simp] theorem forgetCsd_phase (b : Block) : (forgetCsd b).phase = b.phase := rfl
@[simp] theorem forgetCsd_sch (b : Block) : (forgetCsd b).sch = b.sch := rfl
@[simp] theorem forgetCsd_frm (b : Block) : (forgetCsd b).frm = b.frm := rfl
@[simp] theorem forgetCsd_hdg (b : Block) : (forgetCsd b).hdg = b.hdg := rfl
@[simp] theorem forgetCsd_enc (b : Block) : (forgetCsd b).enc = b.enc := rfl
@[simp] theorem forgetCsd_act (b : Block) : (forgetCsd b).act = b.act := rfl
@[simp] theorem forgetCsd_steer (b : Block) : (forgetCsd b).steer = b.steer := rfl
@[simp] theorem forgetCsd_throttle (b : Block) : (forgetCsd b).throttle = b.throttle := rfl
@[simp] theorem forgetCsd_sto (b : Block) : (forgetCsd b).sto = { b.sto with csd := freshBytes b 16 } := rfl
@[simp] theorem forgetCsd_irq (b : Block) : (forgetCsd b).irq = b.irq := rfl
@[simp] theorem forgetCsd_mem (b : Block) : (forgetCsd b).mem = b.mem := rfl
@[simp] theorem forgetCsd_env (b : Block) : (forgetCsd b).env = b.env := rfl
@[simp] theorem forgetCsd_ret (b : Block) : (forgetCsd b).ret = b.ret := rfl
@[simp] theorem forgetCsd_fresh (b : Block) : (forgetCsd b).fresh = b.fresh + 16 := rfl

@[simp] theorem forgetLead_cfg (b : Block) : (forgetLead b).cfg = b.cfg := rfl
@[simp] theorem forgetLead_record (b : Block) : (forgetLead b).record = b.record := rfl
@[simp] theorem forgetLead_phase (b : Block) : (forgetLead b).phase = b.phase := rfl
@[simp] theorem forgetLead_sch (b : Block) : (forgetLead b).sch = b.sch := rfl
@[simp] theorem forgetLead_frm (b : Block) : (forgetLead b).frm = b.frm := rfl
@[simp] theorem forgetLead_hdg (b : Block) : (forgetLead b).hdg = b.hdg := rfl
@[simp] theorem forgetLead_enc (b : Block) : (forgetLead b).enc = b.enc := rfl
@[simp] theorem forgetLead_act (b : Block) : (forgetLead b).act = b.act := rfl
@[simp] theorem forgetLead_steer (b : Block) : (forgetLead b).steer = b.steer := rfl
@[simp] theorem forgetLead_throttle (b : Block) : (forgetLead b).throttle = b.throttle := rfl
@[simp] theorem forgetLead_sto (b : Block) : (forgetLead b).sto = { b.sto with lead := freshBytes b 4 } := rfl
@[simp] theorem forgetLead_irq (b : Block) : (forgetLead b).irq = b.irq := rfl
@[simp] theorem forgetLead_mem (b : Block) : (forgetLead b).mem = b.mem := rfl
@[simp] theorem forgetLead_env (b : Block) : (forgetLead b).env = b.env := rfl
@[simp] theorem forgetLead_ret (b : Block) : (forgetLead b).ret = b.ret := rfl
@[simp] theorem forgetLead_fresh (b : Block) : (forgetLead b).fresh = b.fresh + 4 := rfl

@[simp] theorem clearLatches_cfg (b : Block) : (clearLatches b).cfg = b.cfg := rfl
@[simp] theorem clearLatches_record (b : Block) : (clearLatches b).record = b.record := rfl
@[simp] theorem clearLatches_phase (b : Block) : (clearLatches b).phase = b.phase := rfl
@[simp] theorem clearLatches_sch (b : Block) : (clearLatches b).sch = b.sch := rfl
@[simp] theorem clearLatches_frm (b : Block) : (clearLatches b).frm = { b.frm with nobuf := false, restart := false, overflow := false } := rfl
@[simp] theorem clearLatches_hdg (b : Block) : (clearLatches b).hdg = b.hdg := rfl
@[simp] theorem clearLatches_enc (b : Block) : (clearLatches b).enc = b.enc := rfl
@[simp] theorem clearLatches_act (b : Block) : (clearLatches b).act = b.act := rfl
@[simp] theorem clearLatches_steer (b : Block) : (clearLatches b).steer = b.steer := rfl
@[simp] theorem clearLatches_throttle (b : Block) : (clearLatches b).throttle = b.throttle := rfl
@[simp] theorem clearLatches_sto (b : Block) : (clearLatches b).sto = b.sto := rfl
@[simp] theorem clearLatches_irq (b : Block) : (clearLatches b).irq = b.irq := rfl
@[simp] theorem clearLatches_mem (b : Block) : (clearLatches b).mem = b.mem := rfl
@[simp] theorem clearLatches_env (b : Block) : (clearLatches b).env = b.env := rfl
@[simp] theorem clearLatches_ret (b : Block) : (clearLatches b).ret = b.ret := rfl
@[simp] theorem clearLatches_fresh (b : Block) : (clearLatches b).fresh = b.fresh := rfl

@[simp] theorem setCs_cfg (v : Bool) (b : Block) : (setCs v b).cfg = b.cfg := rfl
@[simp] theorem setCs_record (v : Bool) (b : Block) : (setCs v b).record = b.record := rfl
@[simp] theorem setCs_phase (v : Bool) (b : Block) : (setCs v b).phase = b.phase := rfl
@[simp] theorem setCs_sch (v : Bool) (b : Block) : (setCs v b).sch = b.sch := rfl
@[simp] theorem setCs_frm (v : Bool) (b : Block) : (setCs v b).frm = b.frm := rfl
@[simp] theorem setCs_hdg (v : Bool) (b : Block) : (setCs v b).hdg = b.hdg := rfl
@[simp] theorem setCs_enc (v : Bool) (b : Block) : (setCs v b).enc = b.enc := rfl
@[simp] theorem setCs_act (v : Bool) (b : Block) : (setCs v b).act = b.act := rfl
@[simp] theorem setCs_steer (v : Bool) (b : Block) : (setCs v b).steer = b.steer := rfl
@[simp] theorem setCs_throttle (v : Bool) (b : Block) : (setCs v b).throttle = b.throttle := rfl
@[simp] theorem setCs_sto (v : Bool) (b : Block) : (setCs v b).sto = { b.sto with cs := v } := rfl
@[simp] theorem setCs_irq (v : Bool) (b : Block) : (setCs v b).irq = b.irq := rfl
@[simp] theorem setCs_mem (v : Bool) (b : Block) : (setCs v b).mem = b.mem := rfl
@[simp] theorem setCs_env (v : Bool) (b : Block) : (setCs v b).env = b.env := rfl
@[simp] theorem setCs_ret (v : Bool) (b : Block) : (setCs v b).ret = b.ret := rfl
@[simp] theorem setCs_fresh (v : Bool) (b : Block) : (setCs v b).fresh = b.fresh := rfl

@[simp] theorem setFast_cfg (v : Bool) (b : Block) : (setFast v b).cfg = b.cfg := rfl
@[simp] theorem setFast_record (v : Bool) (b : Block) : (setFast v b).record = b.record := rfl
@[simp] theorem setFast_phase (v : Bool) (b : Block) : (setFast v b).phase = b.phase := rfl
@[simp] theorem setFast_sch (v : Bool) (b : Block) : (setFast v b).sch = b.sch := rfl
@[simp] theorem setFast_frm (v : Bool) (b : Block) : (setFast v b).frm = b.frm := rfl
@[simp] theorem setFast_hdg (v : Bool) (b : Block) : (setFast v b).hdg = b.hdg := rfl
@[simp] theorem setFast_enc (v : Bool) (b : Block) : (setFast v b).enc = b.enc := rfl
@[simp] theorem setFast_act (v : Bool) (b : Block) : (setFast v b).act = b.act := rfl
@[simp] theorem setFast_steer (v : Bool) (b : Block) : (setFast v b).steer = b.steer := rfl
@[simp] theorem setFast_throttle (v : Bool) (b : Block) : (setFast v b).throttle = b.throttle := rfl
@[simp] theorem setFast_sto (v : Bool) (b : Block) : (setFast v b).sto = { b.sto with fast := v } := rfl
@[simp] theorem setFast_irq (v : Bool) (b : Block) : (setFast v b).irq = b.irq := rfl
@[simp] theorem setFast_mem (v : Bool) (b : Block) : (setFast v b).mem = b.mem := rfl
@[simp] theorem setFast_env (v : Bool) (b : Block) : (setFast v b).env = b.env := rfl
@[simp] theorem setFast_ret (v : Bool) (b : Block) : (setFast v b).ret = b.ret := rfl
@[simp] theorem setFast_fresh (v : Bool) (b : Block) : (setFast v b).fresh = b.fresh := rfl

@[simp] theorem setEnabled_cfg (v : Bool) (b : Block) : (setEnabled v b).cfg = b.cfg := rfl
@[simp] theorem setEnabled_record (v : Bool) (b : Block) : (setEnabled v b).record = b.record := rfl
@[simp] theorem setEnabled_phase (v : Bool) (b : Block) : (setEnabled v b).phase = b.phase := rfl
@[simp] theorem setEnabled_sch (v : Bool) (b : Block) : (setEnabled v b).sch = b.sch := rfl
@[simp] theorem setEnabled_frm (v : Bool) (b : Block) : (setEnabled v b).frm = b.frm := rfl
@[simp] theorem setEnabled_hdg (v : Bool) (b : Block) : (setEnabled v b).hdg = b.hdg := rfl
@[simp] theorem setEnabled_enc (v : Bool) (b : Block) : (setEnabled v b).enc = b.enc := rfl
@[simp] theorem setEnabled_act (v : Bool) (b : Block) : (setEnabled v b).act = b.act := rfl
@[simp] theorem setEnabled_steer (v : Bool) (b : Block) : (setEnabled v b).steer = b.steer := rfl
@[simp] theorem setEnabled_throttle (v : Bool) (b : Block) : (setEnabled v b).throttle = b.throttle := rfl
@[simp] theorem setEnabled_sto (v : Bool) (b : Block) : (setEnabled v b).sto = { b.sto with enabled := v } := rfl
@[simp] theorem setEnabled_irq (v : Bool) (b : Block) : (setEnabled v b).irq = b.irq := rfl
@[simp] theorem setEnabled_mem (v : Bool) (b : Block) : (setEnabled v b).mem = b.mem := rfl
@[simp] theorem setEnabled_env (v : Bool) (b : Block) : (setEnabled v b).env = b.env := rfl
@[simp] theorem setEnabled_ret (v : Bool) (b : Block) : (setEnabled v b).ret = b.ret := rfl
@[simp] theorem setEnabled_fresh (v : Bool) (b : Block) : (setEnabled v b).fresh = b.fresh := rfl

/-! Raising an event writes the pending events alone. -/

@[simp] theorem raiseEvent_cfg (e : Event) (b : Block) : (raiseEvent e b).cfg = b.cfg := by unfold raiseEvent; split <;> rfl
@[simp] theorem raiseEvent_record (e : Event) (b : Block) : (raiseEvent e b).record = b.record := by unfold raiseEvent; split <;> rfl
@[simp] theorem raiseEvent_phase (e : Event) (b : Block) : (raiseEvent e b).phase = b.phase := by unfold raiseEvent; split <;> rfl
@[simp] theorem raiseEvent_sch (e : Event) (b : Block) : (raiseEvent e b).sch = b.sch := by unfold raiseEvent; split <;> rfl
@[simp] theorem raiseEvent_frm (e : Event) (b : Block) : (raiseEvent e b).frm = b.frm := by unfold raiseEvent; split <;> rfl
@[simp] theorem raiseEvent_hdg (e : Event) (b : Block) : (raiseEvent e b).hdg = b.hdg := by unfold raiseEvent; split <;> rfl
@[simp] theorem raiseEvent_enc (e : Event) (b : Block) : (raiseEvent e b).enc = b.enc := by unfold raiseEvent; split <;> rfl
@[simp] theorem raiseEvent_act (e : Event) (b : Block) : (raiseEvent e b).act = b.act := by unfold raiseEvent; split <;> rfl
@[simp] theorem raiseEvent_steer (e : Event) (b : Block) : (raiseEvent e b).steer = b.steer := by unfold raiseEvent; split <;> rfl
@[simp] theorem raiseEvent_throttle (e : Event) (b : Block) : (raiseEvent e b).throttle = b.throttle := by unfold raiseEvent; split <;> rfl
@[simp] theorem raiseEvent_sto (e : Event) (b : Block) : (raiseEvent e b).sto = b.sto := by unfold raiseEvent; split <;> rfl
@[simp] theorem raiseEvent_mem (e : Event) (b : Block) : (raiseEvent e b).mem = b.mem := by unfold raiseEvent; split <;> rfl
@[simp] theorem raiseEvent_env (e : Event) (b : Block) : (raiseEvent e b).env = b.env := by unfold raiseEvent; split <;> rfl
@[simp] theorem raiseEvent_ret (e : Event) (b : Block) : (raiseEvent e b).ret = b.ret := by unfold raiseEvent; split <;> rfl
@[simp] theorem raiseEvent_fresh (e : Event) (b : Block) : (raiseEvent e b).fresh = b.fresh := by unfold raiseEvent; split <;> rfl

@[simp] theorem raiseEvent_enabled (e : Event) (b : Block) : (raiseEvent e b).irq.enabled = b.irq.enabled := by
  unfold raiseEvent; split <;> rfl

theorem raiseEvent_pending (e : Event) (b : Block) :
    (raiseEvent e b).irq.pending = if b.irq.enabled then b.irq.pending ++ [e] else b.irq.pending := by
  unfold raiseEvent; split <;> rfl

/-! A pulse generator is written by its channel and the other one is left alone. -/

@[simp] theorem getPulse_setPulse (ch : Channel) (p : Pulse) (b : Block) : getPulse ch (setPulse ch p b) = p := by
  cases ch <;> rfl

theorem getPulse_setPulse_other (ch ch' : Channel) (h : ch' ≠ ch) (p : Pulse) (b : Block) :
    getPulse ch' (setPulse ch p b) = getPulse ch' b := by
  cases ch <;> cases ch' <;> first | rfl | exact absurd rfl h

@[simp] theorem setPulse_cfg (ch : Channel) (p : Pulse) (b : Block) : (setPulse ch p b).cfg = b.cfg := by cases ch <;> rfl
@[simp] theorem setPulse_record (ch : Channel) (p : Pulse) (b : Block) : (setPulse ch p b).record = b.record := by cases ch <;> rfl
@[simp] theorem setPulse_phase (ch : Channel) (p : Pulse) (b : Block) : (setPulse ch p b).phase = b.phase := by cases ch <;> rfl
@[simp] theorem setPulse_sch (ch : Channel) (p : Pulse) (b : Block) : (setPulse ch p b).sch = b.sch := by cases ch <;> rfl
@[simp] theorem setPulse_frm (ch : Channel) (p : Pulse) (b : Block) : (setPulse ch p b).frm = b.frm := by cases ch <;> rfl
@[simp] theorem setPulse_hdg (ch : Channel) (p : Pulse) (b : Block) : (setPulse ch p b).hdg = b.hdg := by cases ch <;> rfl
@[simp] theorem setPulse_enc (ch : Channel) (p : Pulse) (b : Block) : (setPulse ch p b).enc = b.enc := by cases ch <;> rfl
@[simp] theorem setPulse_act (ch : Channel) (p : Pulse) (b : Block) : (setPulse ch p b).act = b.act := by cases ch <;> rfl
@[simp] theorem setPulse_sto (ch : Channel) (p : Pulse) (b : Block) : (setPulse ch p b).sto = b.sto := by cases ch <;> rfl
@[simp] theorem setPulse_irq (ch : Channel) (p : Pulse) (b : Block) : (setPulse ch p b).irq = b.irq := by cases ch <;> rfl
@[simp] theorem setPulse_mem (ch : Channel) (p : Pulse) (b : Block) : (setPulse ch p b).mem = b.mem := by cases ch <;> rfl
@[simp] theorem setPulse_env (ch : Channel) (p : Pulse) (b : Block) : (setPulse ch p b).env = b.env := by cases ch <;> rfl
@[simp] theorem setPulse_ret (ch : Channel) (p : Pulse) (b : Block) : (setPulse ch p b).ret = b.ret := by cases ch <;> rfl
@[simp] theorem setPulse_fresh (ch : Channel) (p : Pulse) (b : Block) : (setPulse ch p b).fresh = b.fresh := by cases ch <;> rfl

/-! An encoder cell is written by its index and the other one is left alone. -/

@[simp] theorem getCell_setCell (i : Fin 2) (x : EncCell) (e : Encoder) : getCell i (setCell i x e) = x := by
  unfold getCell setCell; split <;> rfl

@[simp] theorem getCell_setCell_other (i : Fin 2) (x : EncCell) (e : Encoder) :
    getCell (otherCell i) (setCell i x e) = getCell (otherCell i) e := by
  unfold getCell setCell otherCell; fin_cases i <;> rfl

@[simp] theorem otherCell_otherCell (i : Fin 2) : otherCell (otherCell i) = i := by fin_cases i <;> rfl

@[simp] theorem setCell_active (i : Fin 2) (x : EncCell) (e : Encoder) : (setCell i x e).active = e.active := by
  unfold setCell; split <;> rfl

@[simp] theorem setCell_qPrev (i : Fin 2) (x : EncCell) (e : Encoder) : (setCell i x e).qPrev = e.qPrev := by
  unfold setCell; split <;> rfl

end Sys2Proof.Machine
end

