-- ==== Sys2Proof/Laws/Registers.lean ====
section
/-!
SUPPORT. What reading and writing a register byte by byte comes to when nothing happens in between, and the laws of the registers
the main loop reaches.
-/

namespace Sys2Proof.Machine

/-! ## Bytes of words -/

theorem byteMask_getLsbD (w k i : Nat) : (byteMask w k).getLsbD i = decide (i < w ∧ 8 * k ≤ i ∧ i < 8 * k + 8) := by
  have h : Nat.testBit 255 (i - 8 * k) = decide (i - 8 * k < 8) := Nat.testBit_two_pow_sub_one 8 _
  rw [byteMask, BitVec.getLsbD_shiftLeft, BitVec.getLsbD_ofNat, h]
  by_cases h1 : i < w <;> by_cases h2 : 8 * k ≤ i <;> by_cases h3 : i < 8 * k + 8 <;>
    simp [h1, h2, h3] <;> omega

/-- The bits of byte `k` come from the new word, the others from the old one. -/
theorem mergeByte_getLsbD (k : Nat) (v old : BitVec w) (i : Nat) :
    (mergeByte k v old).getLsbD i = if 8 * k ≤ i ∧ i < 8 * k + 8 then v.getLsbD i else old.getLsbD i := by
  simp only [mergeByte, BitVec.getLsbD_or, BitVec.getLsbD_and, BitVec.getLsbD_not, byteMask_getLsbD]
  by_cases hw : i < w
  · by_cases h1 : 8 * k ≤ i <;> by_cases h2 : i < 8 * k + 8 <;> simp [hw, h1, h2]
  · simp [hw, BitVec.getLsbD_of_ge v i (by omega), BitVec.getLsbD_of_ge old i (by omega)]

/-! ## Programs -/

theorem total_readFrom (r : Reg w) (n k : Nat) : (readFrom r n k).Total := by
  induction n generalizing k with
  | zero => exact True.intro
  | succ n ih => exact (Prog.Total.ask _).bind fun lo => (ih _).bind fun hi => Prog.Total.ret _

theorem total_readReg (r : Reg w) : (readReg r).Total := (total_readFrom r _ _).bind fun _ => Prog.Total.ret _

theorem total_writeFrom (r : Reg w) (v : BitVec w) (n k : Nat) : (writeFrom r v n k).Total := by
  induction n generalizing k with
  | zero => exact True.intro
  | succ n ih => exact (Prog.Total.act _).andThen (ih _)

theorem total_writeReg (r : Reg w) (v : BitVec w) : (writeReg r v).Total := total_writeFrom r v _ _

theorem total_modifyReg (r : Reg w) (f : BitVec w → BitVec w) : (modifyReg r f).Total :=
  (total_readReg r).bind fun _ => total_writeReg r _

theorem total_copyReg (src dst : Reg w) : (copyReg src dst).Total := (total_readReg src).bind fun _ => total_writeReg dst _

theorem total_orStatusProg (n : Nat) : (orStatusProg n).Total := total_modifyReg _ _

theorem total_endPhase (p : BitVec 4) : (endPhase p).Total := Prog.Total.act _

theorem total_returns (r : Result) : (returns r).Total := Prog.Total.act _

/-- Reading keeps every property of the block. -/
theorem keeps_readFrom {P : Block → Prop} (r : Reg w) (n k : Nat) : (readFrom r n k).Keeps P := by
  induction n generalizing k with
  | zero => exact True.intro
  | succ n ih => exact (Prog.Keeps.ask _).bind fun lo => (ih _).bind fun hi => True.intro

theorem keeps_readReg {P : Block → Prop} (r : Reg w) : (readReg r).Keeps P := (keeps_readFrom r _ _).bind fun _ => True.intro

/-- Writing keeps a property that no write of the register breaks. -/
theorem keeps_writeReg {P : Block → Prop} {r : Reg w} (h : ∀ x b, P b → P (r.set x b)) (v : BitVec w) : (writeReg r v).Keeps P := by
  have hf : ∀ n k, (writeFrom r v n k).Keeps P := by
    intro n
    induction n with
    | zero => exact fun _ => True.intro
    | succ n ih => exact fun k => (Prog.Keeps.act fun b hb => h _ b hb).andThen (ih _)
  exact hf _ _

theorem run_readFrom (r : Reg w) (n k : Nat) (b : Block) :
    (readFrom r n k).run b = ((r.get b).toNat / 256 ^ k % 256 ^ n, b) := by
  induction n generalizing k with
  | zero => simp [readFrom, Nat.mod_one]
  | succ n ih =>
    simp only [readFrom, Prog.run_bind, Prog.run_ask, ih, Prog.run_ret, byteOf, BitVec.toNat_ofNat, Nat.shiftRight_eq_div_pow,
      Nat.pow_mul, Nat.reducePow, Prod.mk.injEq, and_true]
    rw [Nat.pow_succ 256 k, ← Nat.div_div_eq_div_mul, Nat.pow_succ' (n := n), Nat.mod_mul]

/-- A register read with no write in between is its value. -/
@[simp] theorem run_readReg (r : Reg w) (b : Block) : (readReg r).run b = (r.get b, b) := by
  have hw : (r.get b).toNat < 256 ^ byteCount w := by
    have h1 : (2 : Nat) ^ w ≤ 2 ^ (8 * byteCount w) := Nat.pow_le_pow_right (by omega) (by unfold byteCount; omega)
    rw [Nat.pow_mul] at h1
    exact Nat.lt_of_lt_of_le (r.get b).isLt h1
  simp [readReg, run_readFrom, Nat.mod_eq_of_lt hw]

/-- A register whose last write is what it holds. -/
structure Reg.Lawful (r : Reg w) : Prop where
  get_set : ∀ v b, r.get (r.set v b) = v
  set_set : ∀ u v b, r.set v (r.set u b) = r.set v b

/-- After the bytes from `k` on are written they are the new value's, and the others are as before. -/
theorem run_writeFrom {r : Reg w} (hr : r.Lawful) (v : BitVec w) (n k : Nat) (b : Block) :
    ∃ x, (writeFrom r v (n + 1) k).run b = ((), r.set x b)
      ∧ ∀ i, x.getLsbD i = if 8 * k ≤ i ∧ i < 8 * (k + n + 1) then v.getLsbD i else (r.get b).getLsbD i := by
  induction n generalizing k b with
  | zero => exact ⟨mergeByte k v (r.get b), rfl, fun i => by rw [mergeByte_getLsbD]; rfl⟩
  | succ n ih =>
    obtain ⟨x, hx, hbits⟩ := ih (k + 1) (r.set (mergeByte k v (r.get b)) b)
    refine ⟨x, ?_, fun i => ?_⟩
    · rw [writeFrom, Prog.run_andThen, Prog.run_act, hx, hr.set_set]
    · rw [hbits, hr.get_set, mergeByte_getLsbD]
      split_ifs <;> first | rfl | omega

/-- A register written with no other write in between holds the value. -/
theorem run_writeReg {r : Reg w} (hr : r.Lawful) (hw : 0 < w) (v : BitVec w) (b : Block) :
    (writeReg r v).run b = ((), r.set v b) := by
  obtain ⟨n, hn⟩ : ∃ n, byteCount w = n + 1 := ⟨byteCount w - 1, by unfold byteCount; omega⟩
  obtain ⟨x, hx, hbits⟩ := run_writeFrom hr v n 0 b
  rw [writeReg, hn, hx]
  congr 2
  refine BitVec.eq_of_getLsbD_eq fun i hi => ?_
  rw [hbits, if_pos ⟨by omega, by unfold byteCount at hn; omega⟩]

theorem run_modifyReg {r : Reg w} (hr : r.Lawful) (hw : 0 < w) (f : BitVec w → BitVec w) (b : Block) :
    (modifyReg r f).run b = ((), r.set (f (r.get b)) b) := by
  rw [modifyReg, Prog.run_bind, run_readReg, run_writeReg hr hw]

theorem run_copyReg {src dst : Reg w} (hd : dst.Lawful) (hw : 0 < w) (b : Block) :
    (copyReg src dst).run b = ((), dst.set (src.get b) b) := by
  rw [copyReg, Prog.run_bind, run_readReg, run_writeReg hd hw]

/-! ## The registers -/

@[simp] theorem statusReg_get (b : Block) : statusReg.get b = b.record.status := rfl
@[simp] theorem statusReg_set (v : BitVec 32) (b : Block) : statusReg.set v b = { b with record := { b.record with status := v } } := rfl
@[simp] theorem run_write_statusReg (v : BitVec 32) (b : Block) :
    (writeReg statusReg v).run b = ((), { b with record := { b.record with status := v } }) :=
  run_writeReg ⟨fun _ _ => rfl, fun _ _ _ => rfl⟩ (by omega) v b
@[simp] theorem gpsLatReg_get (b : Block) : gpsLatReg.get b = b.record.gpsLat := rfl
@[simp] theorem gpsLatReg_set (v : BitVec 32) (b : Block) : gpsLatReg.set v b = { b with record := { b.record with gpsLat := v } } := rfl
@[simp] theorem run_write_gpsLatReg (v : BitVec 32) (b : Block) :
    (writeReg gpsLatReg v).run b = ((), { b with record := { b.record with gpsLat := v } }) :=
  run_writeReg ⟨fun _ _ => rfl, fun _ _ _ => rfl⟩ (by omega) v b
@[simp] theorem gpsLonReg_get (b : Block) : gpsLonReg.get b = b.record.gpsLon := rfl
@[simp] theorem gpsLonReg_set (v : BitVec 32) (b : Block) : gpsLonReg.set v b = { b with record := { b.record with gpsLon := v } } := rfl
@[simp] theorem run_write_gpsLonReg (v : BitVec 32) (b : Block) :
    (writeReg gpsLonReg v).run b = ((), { b with record := { b.record with gpsLon := v } }) :=
  run_writeReg ⟨fun _ _ => rfl, fun _ _ _ => rfl⟩ (by omega) v b
@[simp] theorem gpsHdopReg_get (b : Block) : gpsHdopReg.get b = b.record.gpsHdop := rfl
@[simp] theorem gpsHdopReg_set (v : BitVec 32) (b : Block) : gpsHdopReg.set v b = { b with record := { b.record with gpsHdop := v } } := rfl
@[simp] theorem run_write_gpsHdopReg (v : BitVec 32) (b : Block) :
    (writeReg gpsHdopReg v).run b = ((), { b with record := { b.record with gpsHdop := v } }) :=
  run_writeReg ⟨fun _ _ => rfl, fun _ _ _ => rfl⟩ (by omega) v b
@[simp] theorem gpsAltReg_get (b : Block) : gpsAltReg.get b = b.record.gpsAlt := rfl
@[simp] theorem gpsAltReg_set (v : BitVec 32) (b : Block) : gpsAltReg.set v b = { b with record := { b.record with gpsAlt := v } } := rfl
@[simp] theorem run_write_gpsAltReg (v : BitVec 32) (b : Block) :
    (writeReg gpsAltReg v).run b = ((), { b with record := { b.record with gpsAlt := v } }) :=
  run_writeReg ⟨fun _ _ => rfl, fun _ _ _ => rfl⟩ (by omega) v b
@[simp] theorem gpsXReg_get (b : Block) : gpsXReg.get b = b.record.gpsX := rfl
@[simp] theorem gpsXReg_set (v : BitVec 32) (b : Block) : gpsXReg.set v b = { b with record := { b.record with gpsX := v } } := rfl
@[simp] theorem run_write_gpsXReg (v : BitVec 32) (b : Block) :
    (writeReg gpsXReg v).run b = ((), { b with record := { b.record with gpsX := v } }) :=
  run_writeReg ⟨fun _ _ => rfl, fun _ _ _ => rfl⟩ (by omega) v b
@[simp] theorem gpsYReg_get (b : Block) : gpsYReg.get b = b.record.gpsY := rfl
@[simp] theorem gpsYReg_set (v : BitVec 32) (b : Block) : gpsYReg.set v b = { b with record := { b.record with gpsY := v } } := rfl
@[simp] theorem run_write_gpsYReg (v : BitVec 32) (b : Block) :
    (writeReg gpsYReg v).run b = ((), { b with record := { b.record with gpsY := v } }) :=
  run_writeReg ⟨fun _ _ => rfl, fun _ _ _ => rfl⟩ (by omega) v b
@[simp] theorem gpsSpeedReg_get (b : Block) : gpsSpeedReg.get b = b.record.gpsSpeed := rfl
@[simp] theorem gpsSpeedReg_set (v : BitVec 32) (b : Block) : gpsSpeedReg.set v b = { b with record := { b.record with gpsSpeed := v } } := rfl
@[simp] theorem run_write_gpsSpeedReg (v : BitVec 32) (b : Block) :
    (writeReg gpsSpeedReg v).run b = ((), { b with record := { b.record with gpsSpeed := v } }) :=
  run_writeReg ⟨fun _ _ => rfl, fun _ _ _ => rfl⟩ (by omega) v b
@[simp] theorem gpsCourseReg_get (b : Block) : gpsCourseReg.get b = b.record.gpsCourse := rfl
@[simp] theorem gpsCourseReg_set (v : BitVec 32) (b : Block) : gpsCourseReg.set v b = { b with record := { b.record with gpsCourse := v } } := rfl
@[simp] theorem run_write_gpsCourseReg (v : BitVec 32) (b : Block) :
    (writeReg gpsCourseReg v).run b = ((), { b with record := { b.record with gpsCourse := v } }) :=
  run_writeReg ⟨fun _ _ => rfl, fun _ _ _ => rfl⟩ (by omega) v b
@[simp] theorem gpsDateReg_get (b : Block) : gpsDateReg.get b = b.record.gpsDate := rfl
@[simp] theorem gpsDateReg_set (v : BitVec 32) (b : Block) : gpsDateReg.set v b = { b with record := { b.record with gpsDate := v } } := rfl
@[simp] theorem run_write_gpsDateReg (v : BitVec 32) (b : Block) :
    (writeReg gpsDateReg v).run b = ((), { b with record := { b.record with gpsDate := v } }) :=
  run_writeReg ⟨fun _ _ => rfl, fun _ _ _ => rfl⟩ (by omega) v b
@[simp] theorem gpsMagvarReg_get (b : Block) : gpsMagvarReg.get b = b.record.gpsMagvar := rfl
@[simp] theorem gpsMagvarReg_set (v : BitVec 32) (b : Block) : gpsMagvarReg.set v b = { b with record := { b.record with gpsMagvar := v } } := rfl
@[simp] theorem run_write_gpsMagvarReg (v : BitVec 32) (b : Block) :
    (writeReg gpsMagvarReg v).run b = ((), { b with record := { b.record with gpsMagvar := v } }) :=
  run_writeReg ⟨fun _ _ => rfl, fun _ _ _ => rfl⟩ (by omega) v b
@[simp] theorem hdgRawReg_get (b : Block) : hdgRawReg.get b = b.record.hdgRaw := rfl
@[simp] theorem hdgRawReg_set (v : BitVec 16) (b : Block) : hdgRawReg.set v b = { b with record := { b.record with hdgRaw := v } } := rfl
@[simp] theorem run_write_hdgRawReg (v : BitVec 16) (b : Block) :
    (writeReg hdgRawReg v).run b = ((), { b with record := { b.record with hdgRaw := v } }) :=
  run_writeReg ⟨fun _ _ => rfl, fun _ _ _ => rfl⟩ (by omega) v b
@[simp] theorem hdgDegReg_get (b : Block) : hdgDegReg.get b = b.record.hdgDeg := rfl
@[simp] theorem hdgDegReg_set (v : BitVec 32) (b : Block) : hdgDegReg.set v b = { b with record := { b.record with hdgDeg := v } } := rfl
@[simp] theorem run_write_hdgDegReg (v : BitVec 32) (b : Block) :
    (writeReg hdgDegReg v).run b = ((), { b with record := { b.record with hdgDeg := v } }) :=
  run_writeReg ⟨fun _ _ => rfl, fun _ _ _ => rfl⟩ (by omega) v b
@[simp] theorem hdgRadReg_get (b : Block) : hdgRadReg.get b = b.record.hdgRad := rfl
@[simp] theorem hdgRadReg_set (v : BitVec 32) (b : Block) : hdgRadReg.set v b = { b with record := { b.record with hdgRad := v } } := rfl
@[simp] theorem run_write_hdgRadReg (v : BitVec 32) (b : Block) :
    (writeReg hdgRadReg v).run b = ((), { b with record := { b.record with hdgRad := v } }) :=
  run_writeReg ⟨fun _ _ => rfl, fun _ _ _ => rfl⟩ (by omega) v b
@[simp] theorem encTicksReg_get (b : Block) : encTicksReg.get b = b.record.encTicks := rfl
@[simp] theorem encTicksReg_set (v : BitVec 16) (b : Block) : encTicksReg.set v b = { b with record := { b.record with encTicks := v } } := rfl
@[simp] theorem run_write_encTicksReg (v : BitVec 16) (b : Block) :
    (writeReg encTicksReg v).run b = ((), { b with record := { b.record with encTicks := v } }) :=
  run_writeReg ⟨fun _ _ => rfl, fun _ _ _ => rfl⟩ (by omega) v b
@[simp] theorem encValidReg_get (b : Block) : encValidReg.get b = b.record.encValid := rfl
@[simp] theorem encValidReg_set (v : BitVec 8) (b : Block) : encValidReg.set v b = { b with record := { b.record with encValid := v } } := rfl
@[simp] theorem run_write_encValidReg (v : BitVec 8) (b : Block) :
    (writeReg encValidReg v).run b = ((), { b with record := { b.record with encValid := v } }) :=
  run_writeReg ⟨fun _ _ => rfl, fun _ _ _ => rfl⟩ (by omega) v b
@[simp] theorem estXReg_get (b : Block) : estXReg.get b = b.record.estX := rfl
@[simp] theorem estXReg_set (v : BitVec 32) (b : Block) : estXReg.set v b = { b with record := { b.record with estX := v } } := rfl
@[simp] theorem run_write_estXReg (v : BitVec 32) (b : Block) :
    (writeReg estXReg v).run b = ((), { b with record := { b.record with estX := v } }) :=
  run_writeReg ⟨fun _ _ => rfl, fun _ _ _ => rfl⟩ (by omega) v b
@[simp] theorem estYReg_get (b : Block) : estYReg.get b = b.record.estY := rfl
@[simp] theorem estYReg_set (v : BitVec 32) (b : Block) : estYReg.set v b = { b with record := { b.record with estY := v } } := rfl
@[simp] theorem run_write_estYReg (v : BitVec 32) (b : Block) :
    (writeReg estYReg v).run b = ((), { b with record := { b.record with estY := v } }) :=
  run_writeReg ⟨fun _ _ => rfl, fun _ _ _ => rfl⟩ (by omega) v b
@[simp] theorem estHeadingReg_get (b : Block) : estHeadingReg.get b = b.record.estHeading := rfl
@[simp] theorem estHeadingReg_set (v : BitVec 32) (b : Block) : estHeadingReg.set v b = { b with record := { b.record with estHeading := v } } := rfl
@[simp] theorem run_write_estHeadingReg (v : BitVec 32) (b : Block) :
    (writeReg estHeadingReg v).run b = ((), { b with record := { b.record with estHeading := v } }) :=
  run_writeReg ⟨fun _ _ => rfl, fun _ _ _ => rfl⟩ (by omega) v b
@[simp] theorem wpIndexReg_get (b : Block) : wpIndexReg.get b = b.record.wpIndex := rfl
@[simp] theorem wpIndexReg_set (v : BitVec 8) (b : Block) : wpIndexReg.set v b = { b with record := { b.record with wpIndex := v } } := rfl
@[simp] theorem run_write_wpIndexReg (v : BitVec 8) (b : Block) :
    (writeReg wpIndexReg v).run b = ((), { b with record := { b.record with wpIndex := v } }) :=
  run_writeReg ⟨fun _ _ => rfl, fun _ _ _ => rfl⟩ (by omega) v b
@[simp] theorem wpAngleReg_get (b : Block) : wpAngleReg.get b = b.record.wpAngle := rfl
@[simp] theorem wpAngleReg_set (v : BitVec 32) (b : Block) : wpAngleReg.set v b = { b with record := { b.record with wpAngle := v } } := rfl
@[simp] theorem run_write_wpAngleReg (v : BitVec 32) (b : Block) :
    (writeReg wpAngleReg v).run b = ((), { b with record := { b.record with wpAngle := v } }) :=
  run_writeReg ⟨fun _ _ => rfl, fun _ _ _ => rfl⟩ (by omega) v b
@[simp] theorem steerUsReg_get (b : Block) : steerUsReg.get b = b.record.steerUs := rfl
@[simp] theorem steerUsReg_set (v : BitVec 16) (b : Block) : steerUsReg.set v b = { b with record := { b.record with steerUs := v } } := rfl
@[simp] theorem run_write_steerUsReg (v : BitVec 16) (b : Block) :
    (writeReg steerUsReg v).run b = ((), { b with record := { b.record with steerUs := v } }) :=
  run_writeReg ⟨fun _ _ => rfl, fun _ _ _ => rfl⟩ (by omega) v b
@[simp] theorem throttleUsReg_get (b : Block) : throttleUsReg.get b = b.record.throttleUs := rfl
@[simp] theorem throttleUsReg_set (v : BitVec 16) (b : Block) : throttleUsReg.set v b = { b with record := { b.record with throttleUs := v } } := rfl
@[simp] theorem run_write_throttleUsReg (v : BitVec 16) (b : Block) :
    (writeReg throttleUsReg v).run b = ((), { b with record := { b.record with throttleUs := v } }) :=
  run_writeReg ⟨fun _ _ => rfl, fun _ _ _ => rfl⟩ (by omega) v b
@[simp] theorem hValueReg_get (b : Block) : hValueReg.get b = b.hdg.value := rfl
@[simp] theorem hValueReg_set (v : BitVec 16) (b : Block) : hValueReg.set v b = { b with hdg := { b.hdg with value := v } } := rfl
@[simp] theorem run_write_hValueReg (v : BitVec 16) (b : Block) : (writeReg hValueReg v).run b = ((), { b with hdg := { b.hdg with value := v } }) :=
  run_writeReg ⟨fun _ _ => rfl, fun _ _ _ => rfl⟩ (by omega) v b
@[simp] theorem holdReg_get (b : Block) : holdReg.get b = b.act.hold := rfl
@[simp] theorem holdReg_set (v : BitVec 8) (b : Block) : holdReg.set v b = { b with act := { b.act with hold := v } } := rfl
@[simp] theorem run_write_holdReg (v : BitVec 8) (b : Block) : (writeReg holdReg v).run b = ((), { b with act := { b.act with hold := v } }) :=
  run_writeReg ⟨fun _ _ => rfl, fun _ _ _ => rfl⟩ (by omega) v b
@[simp] theorem nextBlockReg_get (b : Block) : nextBlockReg.get b = b.sto.nextBlock := rfl
@[simp] theorem nextBlockReg_set (v : BitVec 32) (b : Block) : nextBlockReg.set v b = { b with sto := { b.sto with nextBlock := v } } := rfl
@[simp] theorem run_write_nextBlockReg (v : BitVec 32) (b : Block) : (writeReg nextBlockReg v).run b = ((), { b with sto := { b.sto with nextBlock := v } }) :=
  run_writeReg ⟨fun _ _ => rfl, fun _ _ _ => rfl⟩ (by omega) v b
@[simp] theorem capacityReg_get (b : Block) : capacityReg.get b = b.sto.capacityBlocks := rfl
@[simp] theorem capacityReg_set (v : BitVec 32) (b : Block) : capacityReg.set v b = { b with sto := { b.sto with capacityBlocks := v } } := rfl
@[simp] theorem run_write_capacityReg (v : BitVec 32) (b : Block) : (writeReg capacityReg v).run b = ((), { b with sto := { b.sto with capacityBlocks := v } }) :=
  run_writeReg ⟨fun _ _ => rfl, fun _ _ _ => rfl⟩ (by omega) v b

@[simp] theorem cellCountReg_get (j : Fin 2) (b : Block) : (cellCountReg j).get b = (getCell j b.enc).count := rfl
@[simp] theorem cellCountReg_set (j : Fin 2) (v : BitVec 16) (b : Block) :
    (cellCountReg j).set v b = { b with enc := setCell j { getCell j b.enc with count := v } b.enc } := rfl
@[simp] theorem run_write_cellCountReg (j : Fin 2) (v : BitVec 16) (b : Block) :
    (writeReg (cellCountReg j) v).run b = ((), { b with enc := setCell j { getCell j b.enc with count := v } b.enc }) :=
  run_writeReg ⟨fun _ _ => by simp, fun _ _ _ => by fin_cases j <;> rfl⟩ (by omega) v b

@[simp] theorem sCountReg_get (bits : Nat) (b : Block) : (sCountReg bits).get b = BitVec.ofNat bits b.sch.count := rfl
@[simp] theorem sCountReg_set (bits : Nat) (v : BitVec bits) (b : Block) :
    (sCountReg bits).set v b = { b with sch := { b.sch with count := v.toNat } } := rfl
theorem run_write_sCountReg {bits : Nat} (hb : 0 < bits) (v : BitVec bits) (b : Block) :
    (writeReg (sCountReg bits) v).run b = ((), { b with sch := { b.sch with count := v.toNat } }) :=
  run_writeReg ⟨fun _ _ => by simp, fun _ _ _ => rfl⟩ hb v b

/-- A status bit set by OR, as one change. -/
@[simp] theorem run_orStatusProg (n : Nat) (b : Block) : (orStatusProg n).run b = ((), orStatus n b) := by
  simp [orStatusProg, modifyReg, orStatus]

@[simp] theorem run_endPhase (p : BitVec 4) (b : Block) : (endPhase p).run b = ((), setPhase p b) := rfl

@[simp] theorem run_returns (r : Result) (b : Block) : (returns r).run b = ((), setRet r b) := rfl

end Sys2Proof.Machine
end

