-- ==== Sys2Proof/Laws/Ops.lean ====
section
/-!
SUPPORT. For each shared operation, one lemma that says what it can do.
-/

namespace Sys2Proof.Machine

/-! ## Outcomes -/

theorem done_next (f : Block → Block) (s : State) : done f s = .next (s.mapBlk f) := rfl

/-- An operation that can fault answers a next state exactly with the block it computed. -/
theorem doneOrFault_next {r : Except Fault Block} {s t : State} (h : doneOrFault r s = .next t) :
    ∃ b, r = .ok b ∧ t = { s with blk := b } := by
  cases r with
  | ok b => exact ⟨b, rfl, by simpa [doneOrFault] using h.symm⟩
  | error e => simp [doneOrFault] at h

/-! ## Stores -/

/-- A store into a slot: the slot and the byte exist, and that byte alone is written. -/
theorem storeSlot_ok {i k : Nat} {v : Byte} {b b' : Block} (h : storeSlot i k v b = .ok b') :
    i < b.cfg.nSlots ∧ k < b.cfg.sentenceCap ∧ b' = { b with mem := memWrite (slotAddr b.cfg i k) v b.mem } := by
  unfold storeSlot at h
  split at h
  · next hc => exact ⟨hc.1, hc.2, by simpa using h.symm⟩
  · simp at h

theorem storeSlot_inside {i k : Nat} (v : Byte) {b : Block} (hi : i < b.cfg.nSlots) (hk : k < b.cfg.sentenceCap) :
    storeSlot i k v b = .ok { b with mem := memWrite (slotAddr b.cfg i k) v b.mem } := if_pos ⟨hi, hk⟩

/-- Two bytes of the slots have one address only when they are one byte. -/
theorem slotAddr_inj {c : Config} {i i' k k' : Nat} (hk : k < c.sentenceCap) (hk' : k' < c.sentenceCap)
    (h : slotAddr c i k = slotAddr c i' k') : i = i' ∧ k = k' := by
  unfold slotAddr at h
  have hi : i = i' := by
    have h1 : (i * c.sentenceCap + k) / c.sentenceCap = i := by
      rw [Nat.mul_comm, Nat.mul_add_div (by omega), Nat.div_eq_of_lt hk, Nat.add_zero]
    have h2 : (i' * c.sentenceCap + k') / c.sentenceCap = i' := by
      rw [Nat.mul_comm, Nat.mul_add_div (by omega), Nat.div_eq_of_lt hk', Nat.add_zero]
    rw [← h1, ← h2, h]
  subst hi
  exact ⟨rfl, by omega⟩

/-- The raw fields lie above the slots. -/
theorem slotAddr_lt_rawAddr {c : Config} {i j k l : Nat} (hi : i < c.nSlots) (hk : k < c.sentenceCap) :
    slotAddr c i k < rawAddr c j l := by
  have h1 : slotAddr c i k < (i + 1) * c.sentenceCap := by
    unfold slotAddr
    rw [Nat.succ_mul]
    omega
  have h2 : (i + 1) * c.sentenceCap ≤ rawAddr c j l :=
    Nat.le_trans (Nat.mul_le_mul_right _ (by omega : i + 1 ≤ c.nSlots + j)) (Nat.le_add_right _ _)
  omega

@[simp] theorem length_slotText (b : Block) (i : Nat) : (slotText b i).length = b.cfg.sentenceCap := by simp [slotText]

@[simp] theorem length_rawText (b : Block) (i : Nat) : (rawText b i).length = b.cfg.sentenceCap := by simp [rawText]

/-! ## The record image -/

@[simp] theorem length_le32 (v : U32) : (le32 v).length = 4 := rfl
@[simp] theorem length_le16 (v : U16) : (le16 v).length = 2 := rfl
@[simp] theorem length_be32 (v : U32) : (be32 v).length = 4 := rfl

theorem length_recordTail (r : SharedRecord) : (recordTail r).length = 74 := by
  have h4 : ∀ v, (le32 v).length = 4 := fun _ => rfl
  have h2 : ∀ v, (le16 v).length = 2 := fun _ => rfl
  have h1 : ∀ v : Byte, [v].length = 1 := fun _ => rfl
  unfold recordTail
  repeat rw [List.length_append]
  rw [h4, h4, h4, h4, h4, h4, h4, h4, h4, h4, h4, h4, h4, h4, h4, h4, h2, h2, h2, h2, h1, h1]

theorem length_recordFields (b : Block) : (recordFields b).length = b.cfg.recordPayload := by
  simp only [recordFields, Config.recordPayload, List.length_append, length_le32, length_recordTail, List.length_flatMap,
    length_rawText, List.map_const', List.sum_replicate, List.length_range, smul_eq_mul]

/-! ## The status word -/

/-- Setting one of the named bits keeps the reserved ones clear. -/
theorem statusReservedClear_or {n : Nat} {st : U32} (h : n < 9) (hs : statusReservedClear st = true) :
    statusReservedClear (st ||| statusBit n) = true := by
  unfold statusReservedClear statusBit at *
  rw [beq_iff_eq] at *
  have hb : 1#32 <<< n &&& 0xFFFFFE00#32 = 0#32 := by
    have : ∀ n : Fin 9, 1#32 <<< n.val &&& 0xFFFFFE00#32 = 0#32 := by decide
    exact this ⟨n, h⟩
  rw [BitVec.and_comm, BitVec.and_or_distrib_left, BitVec.and_comm _ st, hs, BitVec.and_comm _ (1#32 <<< n), hb]
  rfl

theorem statusReservedClear_orIf {n : Nat} {st : U32} (on : Bool) (h : n < 9) (hs : statusReservedClear st = true) :
    statusReservedClear (orStatusIf on n st) = true := by
  unfold orStatusIf
  split
  · exact statusReservedClear_or h hs
  · exact hs

/-! ## Waypoints and speed classes -/

/-- An index up to `TABLE_LEN` selects a waypoint, and no other does. -/
theorem waypointAt_isSome {c : Config} {i : Nat} : (waypointAt c i).isSome = true ↔ i ≤ c.tableLen := by
  unfold waypointAt Config.tableLen
  split
  · next h => simp [h]; omega
  · split
    · next h => simp [h]
    · simp; omega

/-! ## The storage bus -/

/-- An exchange changes only what the bus has carried and the device. -/
theorem spiXchg_block (v : Byte) (b : Block) :
    ∃ d, (spiXchg v b).1 = { b with env := { b.env with device := d, spiSent := v :: b.env.spiSent } } := ⟨_, rfl⟩

/-- An exchange yields one byte. -/
theorem spiXchg_lt (v : Byte) (b : Block) : (spiXchg v b).2 < 256 := BitVec.isLt _

/-- A property that no exchange breaks is kept by an exchange. -/
theorem keeps_xchg {P : Block → Prop} (h : ∀ v b, P b → P (spiXchg v b).1) (v : Byte) : (xchg v).Keeps P :=
  ⟨h v, fun _ => True.intro⟩

theorem keeps_sendBytes {P : Block → Prop} (h : ∀ v b, P b → P (spiXchg v b).1) (vs : List Byte) :
    (sendBytes vs).Keeps P := by
  induction vs with
  | nil => exact True.intro
  | cons v vs ih => exact (keeps_xchg h v).andThen ih

theorem keeps_recvBytes {P : Block → Prop} (h : ∀ v b, P b → P (spiXchg v b).1) (fl : Byte) (n : Nat) :
    (recvBytes fl n).Keeps P := by
  induction n with
  | zero => exact True.intro
  | succ n ih => exact (keeps_xchg h fl).bind fun _ => ih.bind fun _ => True.intro

/-- As many bytes are received as were asked for. -/
theorem ends_recvBytes (P : Block → Prop) (fl : Byte) (n : Nat) : (recvBytes fl n).EndsFrom P fun ds => ds.length = n := by
  induction n with
  | zero => rfl
  | succ n ih => exact fun _ _ => ih.bind fun ds hd => by simp [Prog.EndsFrom, hd]

theorem keeps_answerPoll {P : Block → Prop} (h : ∀ v b, P b → P (spiXchg v b).1) (fl : Byte) (n : Nat) :
    (answerPoll fl n).Keeps P := by
  induction n with
  | zero => exact True.intro
  | succ n ih =>
    refine (keeps_xchg h fl).bind fun r => ?_
    split
    · exact ih
    · exact True.intro

theorem keeps_tokenPoll {P : Block → Prop} (h : ∀ v b, P b → P (spiXchg v b).1) (fl : Byte) (n : Nat) :
    (tokenPoll fl n).Keeps P := by
  induction n with
  | zero => exact True.intro
  | succ n ih =>
    refine (keeps_xchg h fl).bind fun r => ?_
    split
    · exact ih
    · exact True.intro

theorem keeps_command {P : Block → Prop} (h : ∀ v b, P b → P (spiXchg v b).1) (hcs : ∀ b, P b → P (setCs true b))
    (c : Config) (f : CmdFrame) : (command c f).Keeps P :=
  (Prog.Keeps.act hcs).andThen ((keeps_sendBytes h _).andThen (keeps_answerPoll h _ _))

/-- Received bytes are kept one by one, so a property that no exchange and no keeping breaks is kept. -/
theorem keeps_recvInto {P : Block → Prop} (h : ∀ v b, P b → P (spiXchg v b).1) (fl : Byte) {keep : Nat → Byte → Prog Unit}
    (hk : ∀ i v, (keep i v).Keeps P) (n i : Nat) : (recvInto fl keep n i).Keeps P := by
  induction n generalizing i with
  | zero => exact True.intro
  | succ n ih => exact (keeps_xchg h fl).bind fun r => (hk i r).andThen (ih _)

theorem keeps_readData {P : Block → Prop} (h : ∀ v b, P b → P (spiXchg v b).1) (c : Config) {keep : Nat → Byte → Prog Unit}
    (hk : ∀ i v, (keep i v).Keeps P) (n : Nat) : (readData c keep n).Keeps P := by
  refine (keeps_tokenPoll h _ _).bind fun t => ?_
  split
  · exact (keeps_recvInto h _ hk _ _).andThen ((keeps_recvBytes h _ _).bind fun _ => True.intro)
  · exact True.intro

theorem keeps_readBlockData {P : Block → Prop} (h : ∀ v b, P b → P (spiXchg v b).1) (hcs : ∀ b, P b → P (setCs false b))
    (c : Config) {keep : Nat → Byte → Prog Unit} (hk : ∀ i v, (keep i v).Keeps P) {forget : Block → Block}
    (hf : ∀ b, P b → P (forget b)) (n : Nat) (r : Option Byte) : (readBlockData c keep forget n r).Keeps P := by
  refine Prog.Keeps.bind ?_ fun ok => Prog.Keeps.andThen ?_ ((Prog.Keeps.act hcs).andThen True.intro)
  · split
    · exact keeps_readData h c hk n
    · exact True.intro
  · split
    · exact True.intro
    · exact Prog.Keeps.act hf

/-! ## Operations of the main loop with nothing in between -/

/-- An accepted fix-quality sentence writes its record, any other nothing. -/
theorem run_parseGga (c : Config) (line : List Byte) (b : Block) :
    (parseGga c line).run b = ((), { b with record := if ggaAccepted c line then ggaRecord c line b.record else b.record }) := by
  unfold parseGga
  split <;> simp [ggaRecord, orStatus]

/-- An accepted course/speed/date sentence writes its record, any other nothing. -/
theorem run_parseRmc (c : Config) (line : List Byte) (b : Block) :
    (parseRmc c line).run b = ((), { b with record := if rmcAccepted c line then rmcRecord line b.record else b.record }) := by
  unfold parseRmc
  split <;> simp [rmcRecord, orStatus]

theorem run_parseLine (c : Config) (line : List Byte) (b : Block) :
    (parseLine c line).run b = ((), { b with record := parsedRecord c line b.record }) := by
  unfold parseLine parsedRecord
  split
  · rw [run_parseGga]
  · split
    · rw [run_parseRmc]
    · rfl

theorem total_parseGga (c : Config) (line : List Byte) : (parseGga c line).Total := by
  unfold parseGga
  split
  · repeat' first | exact total_orStatusProg _ | refine (total_writeReg _ _).andThen ?_
  · exact True.intro

theorem total_parseRmc (c : Config) (line : List Byte) : (parseRmc c line).Total := by
  unfold parseRmc
  split
  · repeat' first | exact total_orStatusProg _ | refine (total_writeReg _ _).andThen ?_
  · exact True.intro

theorem total_parseLine (c : Config) (line : List Byte) : (parseLine c line).Total := by
  unfold parseLine
  split
  · exact total_parseGga c line
  · split
    · exact total_parseRmc c line
    · exact True.intro

/-- The driver idle again and the next reading begun. -/
theorem run_rearm (b : Block) : rearm.run b = ((), issueTw .start { b with hdg := { b.hdg with state := .idle, busy := true } }) := rfl

/-- After the driver is made idle the contract of `HDG.BEGIN` holds. -/
theorem attempt_rearm (b : Block) : rearm.attempt b = .ok (rearm.run b) := rfl

/-- `d_state` read selects its own arm. -/
theorem run_caseDrive (arm : DriveState → Prog Unit) (b : Block) : (caseDrive arm).run b = (arm b.act.drive).run b := by
  cases h : b.act.drive <;> simp [caseDrive, h, dCode]

theorem total_caseDrive {arm : DriveState → Prog Unit} (h : ∀ d, (arm d).Total) : (caseDrive arm).Total := by
  refine (Prog.Total.ask _).bind fun n => ?_
  repeat' first | exact h _ | split

theorem run_driveForward (us : U16) (b : Block) :
    (driveForward us).run b =
      ((), { b with record := { b.record with throttleUs := us }, act := { drive := .forward, hold := 0#8 } }) := by
  simp [driveForward, setDrive]

/-- A step of the ramp writes a width on the way, or neutral and the state `Neutral`. -/
theorem run_rampToNeutral (c : Config) (step : Nat) (b : Block) :
    (rampToNeutral c step).run b = ((), match rampWidth c step b.record.throttleUs with
      | some us => { b with record := { b.record with throttleUs := us } }
      | none => { b with record := { b.record with throttleUs := c.neutralUs }, act := { b.act with drive := .neutral } }) := by
  cases h : rampWidth c step b.record.throttleUs <;> simp [rampToNeutral, h, setDrive]

theorem run_steerTo (c : Config) (angle : F32) (b : Block) :
    (steerTo c angle).run b = ((), { b with record := { b.record with steerUs := steerWidth c (clampAngle c angle) } }) := by
  simp [steerTo]

/-- The waypoint that the index selects is used, when there is one. -/
theorem run_withWaypoint {c : Config} {b : Block} {w : Waypoint} (use : Waypoint → Prog Unit)
    (h : waypointAt c b.record.wpIndex.toNat = some w) : (withWaypoint c use).run b = (use w).run b := by
  simp [withWaypoint, h]

theorem attempt_withWaypoint {c : Config} {b : Block} {w : Waypoint} (use : Waypoint → Prog Unit)
    (h : waypointAt c b.record.wpIndex.toNat = some w) : (withWaypoint c use).attempt b = (use w).attempt b := by
  rw [withWaypoint, Prog.attempt_bind, (total_readReg _).attempt, run_readReg]
  simp only [Except.bind, wpIndexReg_get, Prog.attempt_andThen]
  rw [Prog.require, Prog.attempt_need_none _ (by simp [waypointStop, h])]
  simp [h]

end Sys2Proof.Machine
end

