-- ==== Sys2Proof/Laws/PerInstr.lean ====
section
/-!
SUPPORT. A fact of every instruction as syntax: a well-formed one has at least one byte and at most the longest instruction's.
-/

namespace Sys2Proof.Laws.EncodedLength

open Sys2Proof.Machine

/-- The number of bytes of a well-formed instruction's encoding. -/
def Statement (i : Instr) : Prop :=
  ∀ c : Config, c.ok = true → i.wellFormed c = true →
    1 ≤ (encode c i).bytes.length ∧ (encode c i).bytes.length ≤ longestInstr c

/-- An encoding of at most thirteen bytes. -/
theorem statement_short {i : Instr} {n : Nat} (h : ∀ c, (encode c i).bytes.length = n) (h1 : 1 ≤ n) (hn : n ≤ 13) : Statement i :=
  fun c _ _ => ⟨by rw [h]; exact h1, by rw [h]; exact Nat.le_trans hn (Nat.le_max_right _ _)⟩

/-- An encoding with a line of `SENTENCE_CAP` bytes. -/
theorem statement_line {i : Instr}
    (h : ∀ c : Config, c.ok = true → i.wellFormed c = true →
      1 ≤ (encode c i).bytes.length ∧ (encode c i).bytes.length ≤ c.sentenceCap + 1) : Statement i :=
  fun c hc hw => ⟨(h c hc hw).1, Nat.le_trans (h c hc hw).2 (Nat.le_max_left _ _)⟩

theorem length_of_lineOk {c : Config} {line : List Byte} (h : Instr.lineOk c line = true) : line.length = c.sentenceCap := by
  simpa [Instr.lineOk] using h

/-- A buffer holds at least eight bytes (R357 (b)). -/
theorem eight_le_cap {c : Config} (h : c.ok = true) : 8 ≤ c.sentenceCap := by
  simp only [Config.ok, Config.okSlots, Bool.and_eq_true, decide_eq_true_eq] at h
  omega

theorem schBegin : Statement (.schBegin) :=
  statement_short (n := 1) (fun _ => rfl) (by decide) (by decide)

theorem schWait : Statement (.schWait) :=
  statement_short (n := 1) (fun _ => rfl) (by decide) (by decide)

theorem schTick : Statement (.schTick) :=
  statement_short (n := 1) (fun _ => rfl) (by decide) (by decide)

theorem schOvf : Statement (.schOvf) :=
  statement_short (n := 1) (fun _ => rfl) (by decide) (by decide)

theorem schStclr : Statement (.schStclr) :=
  statement_short (n := 1) (fun _ => rfl) (by decide) (by decide)

theorem frmRx (b : Byte) : Statement (.frmRx b) :=
  statement_short (n := 2) (fun _ => rfl) (by decide) (by decide)

theorem frmDrain : Statement (.frmDrain) :=
  statement_short (n := 1) (fun _ => rfl) (by decide) (by decide)

theorem prsChk (line : List Byte) : Statement (.prsChk line) :=
  statement_line fun c _ hw => by
    have := length_of_lineOk (c := c) (line := line) hw
    simp [encode, op8, this]

theorem prsParse (line : List Byte) : Statement (.prsParse line) :=
  statement_line fun c _ hw => by
    have := length_of_lineOk (c := c) (line := line) hw
    simp [encode, op8, this]

theorem prsGga (line : List Byte) : Statement (.prsGga line) :=
  statement_line fun c _ hw => by
    have := length_of_lineOk (c := c) (line := line) hw
    simp [encode, op8, this]

theorem prsRmc (line : List Byte) : Statement (.prsRmc line) :=
  statement_line fun c _ hw => by
    have := length_of_lineOk (c := c) (line := line) hw
    simp [encode, op8, this]

theorem hdgBegin : Statement (.hdgBegin) :=
  statement_short (n := 1) (fun _ => rfl) (by decide) (by decide)

theorem hdgEvt (status data : Byte) : Statement (.hdgEvt status data) :=
  statement_short (n := 3) (fun _ => rfl) (by decide) (by decide)

theorem hdgPoll : Statement (.hdgPoll) :=
  statement_short (n := 1) (fun _ => rfl) (by decide) (by decide)

theorem encEdge (ab : BitVec 2) : Statement (.encEdge ab) :=
  statement_short (n := 2) (fun _ => rfl) (by decide) (by decide)

theorem encDrain : Statement (.encDrain) :=
  statement_short (n := 1) (fun _ => rfl) (by decide) (by decide)

theorem estUpdate : Statement (.estUpdate) :=
  statement_short (n := 1) (fun _ => rfl) (by decide) (by decide)

theorem gdeCrossed (wp : Byte) (px py : F32) : Statement (.gdeCrossed wp px py) :=
  statement_short (n := 10) (fun _ => rfl) (by decide) (by decide)

theorem gdeAdvance : Statement (.gdeAdvance) :=
  statement_short (n := 1) (fun _ => rfl) (by decide) (by decide)

theorem gdeAngle (px py heading : F32) : Statement (.gdeAngle px py heading) :=
  statement_short (n := 13) (fun _ => rfl) (by decide) (by decide)

theorem gdeUpdate : Statement (.gdeUpdate) :=
  statement_short (n := 1) (fun _ => rfl) (by decide) (by decide)

theorem actFwd (c : Byte) : Statement (.actFwd c) :=
  statement_short (n := 2) (fun _ => rfl) (by decide) (by decide)

theorem actStop : Statement (.actStop) :=
  statement_short (n := 1) (fun _ => rfl) (by decide) (by decide)

theorem actRev (c : Byte) : Statement (.actRev c) :=
  statement_short (n := 2) (fun _ => rfl) (by decide) (by decide)

theorem actSteer (angle : F32) : Statement (.actSteer angle) :=
  statement_short (n := 5) (fun _ => rfl) (by decide) (by decide)

theorem actUpdate : Statement (.actUpdate) :=
  statement_short (n := 1) (fun _ => rfl) (by decide) (by decide)

theorem actStartup : Statement (.actStartup) :=
  statement_short (n := 1) (fun _ => rfl) (by decide) (by decide)

theorem stoCmd (cmd : BitVec 6) (arg : U32) (trail : Byte) : Statement (.stoCmd cmd arg trail) :=
  statement_short (n := 7) (fun _ => rfl) (by decide) (by decide)

theorem stoInit : Statement (.stoInit) :=
  statement_short (n := 1) (fun _ => rfl) (by decide) (by decide)

theorem stoFind : Statement (.stoFind) :=
  statement_short (n := 1) (fun _ => rfl) (by decide) (by decide)

theorem stoReadblk (addr : U32) : Statement (.stoReadblk addr) :=
  statement_short (n := 5) (fun _ => rfl) (by decide) (by decide)

theorem stoWrite : Statement (.stoWrite) :=
  statement_short (n := 1) (fun _ => rfl) (by decide) (by decide)

theorem plsStart (ch : Channel) : Statement (.plsStart ch) :=
  statement_short (n := 2) (fun _ => rfl) (by decide) (by decide)

theorem plsMatch (ch : Channel) : Statement (.plsMatch ch) :=
  statement_short (n := 2) (fun _ => rfl) (by decide) (by decide)

theorem plsTick (ch : Channel) : Statement (.plsTick ch) :=
  statement_short (n := 2) (fun _ => rfl) (by decide) (by decide)

theorem frmRxStart : Statement (.frmRxStart) :=
  statement_short (n := 1) (fun _ => rfl) (by decide) (by decide)

theorem frmRxTerm : Statement (.frmRxTerm) :=
  statement_short (n := 1) (fun _ => rfl) (by decide) (by decide)

theorem frmRxData (b : Byte) : Statement (.frmRxData b) :=
  statement_short (n := 1) (fun _ => rfl) (by decide) (by decide)

theorem prsParseGga (rest : List Byte) : Statement (.prsParseGga rest) :=
  statement_line fun c _ hw => by
    have : rest.length + 6 = c.sentenceCap := by simpa [Instr.wellFormed] using hw
    simp [encode, typeGga]
    omega

theorem prsParseRmc (rest : List Byte) : Statement (.prsParseRmc rest) :=
  statement_line fun c _ hw => by
    simp only [Instr.wellFormed, Bool.and_eq_true, beq_iff_eq] at hw
    simp only [encode, List.length_append]
    omega

theorem prsParseIgnore (line : List Byte) : Statement (.prsParseIgnore line) :=
  statement_line fun c hc hw => by
    simp only [Instr.wellFormed, Bool.and_eq_true] at hw
    have := length_of_lineOk hw.1.1
    have := eight_le_cap hc
    simp only [encode]
    omega

theorem hdgEvtStart (status data : Byte) : Statement (.hdgEvtStart status data) :=
  statement_short (n := 2) (fun _ => rfl) (by decide) (by decide)

theorem hdgEvtRepstart (status data : Byte) : Statement (.hdgEvtRepstart status data) :=
  statement_short (n := 2) (fun _ => rfl) (by decide) (by decide)

theorem hdgEvtSlawAck (status data : Byte) : Statement (.hdgEvtSlawAck status data) :=
  statement_short (n := 2) (fun _ => rfl) (by decide) (by decide)

theorem hdgEvtTxdataAck (status data : Byte) : Statement (.hdgEvtTxdataAck status data) :=
  statement_short (n := 2) (fun _ => rfl) (by decide) (by decide)

theorem hdgEvtSlarAck (status data : Byte) : Statement (.hdgEvtSlarAck status data) :=
  statement_short (n := 2) (fun _ => rfl) (by decide) (by decide)

theorem hdgEvtRxdataAck (status data : Byte) : Statement (.hdgEvtRxdataAck status data) :=
  statement_short (n := 2) (fun _ => rfl) (by decide) (by decide)

theorem hdgEvtRxdataNack (status data : Byte) : Statement (.hdgEvtRxdataNack status data) :=
  statement_short (n := 2) (fun _ => rfl) (by decide) (by decide)

theorem hdgEvtOther (status data : Byte) : Statement (.hdgEvtOther status data) :=
  statement_short (n := 2) (fun _ => rfl) (by decide) (by decide)

theorem encEdgeNochg : Statement (.encEdgeNochg) :=
  statement_short (n := 1) (fun _ => rfl) (by decide) (by decide)

theorem encEdgeB : Statement (.encEdgeB) :=
  statement_short (n := 1) (fun _ => rfl) (by decide) (by decide)

theorem encEdgeA : Statement (.encEdgeA) :=
  statement_short (n := 1) (fun _ => rfl) (by decide) (by decide)

theorem encEdgeBoth : Statement (.encEdgeBoth) :=
  statement_short (n := 1) (fun _ => rfl) (by decide) (by decide)

theorem stoCmdReset : Statement (.stoCmdReset) :=
  statement_short (n := 6) (fun _ => rfl) (by decide) (by decide)

theorem stoCmdIfcond : Statement (.stoCmdIfcond) :=
  statement_short (n := 6) (fun _ => rfl) (by decide) (by decide)

theorem stoCmdApp : Statement (.stoCmdApp) :=
  statement_short (n := 6) (fun _ => rfl) (by decide) (by decide)

theorem stoCmdOpcond : Statement (.stoCmdOpcond) :=
  statement_short (n := 6) (fun _ => rfl) (by decide) (by decide)

theorem stoCmdReadocr : Statement (.stoCmdReadocr) :=
  statement_short (n := 6) (fun _ => rfl) (by decide) (by decide)

theorem stoCmdReadcsd : Statement (.stoCmdReadcsd) :=
  statement_short (n := 6) (fun _ => rfl) (by decide) (by decide)

theorem stoCmdReadblk (addr : U32) : Statement (.stoCmdReadblk addr) :=
  statement_short (n := 6) (fun _ => rfl) (by decide) (by decide)

theorem stoCmdWriteblk (addr : U32) : Statement (.stoCmdWriteblk addr) :=
  statement_short (n := 6) (fun _ => rfl) (by decide) (by decide)

end Sys2Proof.Laws.EncodedLength
end

