-- ==== Sys2Proof/Tests/Slice0.lean ====
section
/-!
SUPPORT. Tests: the checks of WellFormed each refuse an ill-formed term; every constructor is decoded from a word written out from
the encoding rules; single steps with the values of `95_test_vectors.md` (vector numbers in the comments); and, for every statement
with hypotheses, a state and operands that meet them.
-/

namespace Sys2Proof.Tests

open Sys2Proof.Machine

-- One theorem after another: each is small, and together they would ask for a thread each.
set_option Elab.async false

/-! ## Helpers -/

/-- The reset state with its block changed. -/
def at' (f : Block → Block) : State := State.reset.mapBlk f

/-- Whether an outcome is a next state with a property. -/
def nextIs (o : Host.Outcome State Fault Refusal) (p : State → Bool) : Bool :=
  match o with
  | .next t => p t
  | _ => false

/-- The instruction a byte string decodes to when nothing is left over. -/
def dec1 (fmt : Format) (bs : List Byte) : Option Instr :=
  match decode standardConfig fmt bs with
  | .ok (i, []) => some i
  | _ => none

/-- The bytes of an ASCII text. -/
def ascii (t : String) : List Byte := t.toList.map fun c => BitVec.ofNat 8 c.toNat

/-- A line in a buffer of 84 bytes, zero-filled (`95_test_vectors.md` 2.3). -/
def buf (t : String) : List Byte := (ascii t ++ [0x0A#8] ++ List.replicate 84 0#8).take 84

/-- The record changed. -/
def rec' (f : SharedRecord → SharedRecord) : State := at' fun b => { b with record := f b.record }

/-- A small configuration for the storage tests: blocks of 128 bytes, lines of 8. -/
def smallConfig : Config := { standardConfig with nSlots := 1, nRaw := 1, sentenceCap := 8, blockSize := 128 }

/-- The reset state of a configuration with a storage device. -/
def with' (c : Config) (d : Device) : State :=
  { State.reset with blk := Block.reset c { Environment.reset with device := d } 0 }

/-- A reference device with no used block (R310). -/
def emptyDevice : RefDevice :=
  { nb := 512, blk := [], csd := List.replicate 16 0#8, ocr := [0xC0#8, 0xFF#8, 0x80#8, 0x00#8], idle := false, warm := 1, busyN := 1
    queue := [], frame := [], recv := .off }


/-! ## WellFormed: every check refuses an ill-formed term -/

theorem test_standardConfig_ok :
    standardConfig.ok = true := by decide +kernel

theorem test_smallConfig_ok :
    smallConfig.ok = true := by decide +kernel

theorem test_refuses_okRecord :
    ({ standardConfig with blockSize := 421 } : Config).okRecord = false := by decide +kernel

theorem test_refuses_okSlots :
    ({ standardConfig with sentenceCap := 7 } : Config).okSlots = false := by decide +kernel

theorem test_refuses_okSlots_none :
    ({ standardConfig with nSlots := 0 } : Config).okSlots = false := by decide +kernel

theorem test_refuses_okSlots_raw :
    ({ standardConfig with nRaw := 5 } : Config).okSlots = false := by decide +kernel

theorem test_refuses_okTicks_zero :
    ({ standardConfig with cycleTicks := 0 } : Config).okTicks = false := by decide +kernel

theorem test_refuses_okTicks_wide :
    ({ standardConfig with cycleTicks := 65536 } : Config).okTicks = false := by decide +kernel

theorem test_refuses_okTable_empty :
    ({ standardConfig with waypoints := [] } : Config).okTable = false := by decide +kernel

theorem test_refuses_okTable_class :
    ({ standardConfig with waypoints := [{ standardWaypoint0 with throttle := .fwd 2 }] } : Config).okTable = false := by decide +kernel

theorem test_refuses_okTable_long :
    ({ standardConfig with waypoints := List.replicate 255 standardWaypoint0 } : Config).okTable = false := by decide +kernel

theorem test_refuses_okThrottle_fwd :
    ({ standardConfig with fwdUs := [1500#16, 1700#16] } : Config).okThrottle = false := by decide +kernel

theorem test_refuses_okThrottle_rev :
    ({ standardConfig with revUs := [1400#16, 0#16] } : Config).okThrottle = false := by decide +kernel

theorem test_refuses_okThrottle_step :
    ({ standardConfig with revRampStep := 0 } : Config).okThrottle = false := by decide +kernel

theorem test_refuses_okThrottle_hold :
    ({ standardConfig with preReverseHold := 256 } : Config).okThrottle = false := by decide +kernel

theorem test_refuses_okSteering_min :
    ({ standardConfig with steerMin := 0x3F800000#32 } : Config).okSteering = false := by decide +kernel

theorem test_refuses_okSteering_width :
    ({ standardConfig with steerUsPerRad := 0x48000000#32 } : Config).okSteering = false := by decide +kernel

theorem test_refuses_okPulses :
    ({ standardConfig with ticksPerUs := 40 } : Config).okPulses = false := by decide +kernel

theorem test_refuses_okRetries :
    ({ standardConfig with tokenRetryMax := 0 } : Config).okRetries = false := by decide +kernel

theorem test_refuses_okGuard :
    ({ standardConfig with guardPrefix := 0xFFFFFFFF#32 } : Config).okGuard = false := by decide +kernel

theorem test_refuses_okHeading :
    ({ standardConfig with headingAddr := 0x80#8 } : Config).okHeading = false := by decide +kernel

theorem test_refuses_okFormats :
    ({ standardConfig with typeRmc := [] } : Config).okFormats = false := by decide +kernel

theorem test_refuses_okFormats_header :
    ({ standardConfig with cmdHeader := 0x41#8 } : Config).okFormats = false := by decide +kernel

theorem test_step_refuses_configuration :
    (match step (with' { standardConfig with nSlots := 0 } .unknown) with | .refused .configuration => true | _ => false) = true := by decide +kernel

theorem test_refuses_illformed_instructions :
    ([.prsChk [0x24#8], .prsParse [], .prsGga [], .prsRmc [], .gdeCrossed 3#8 0#32 0#32, .actFwd 2#8, .actRev 2#8, .frmRxData 0x24#8, .prsParseGga [], .prsParseRmc [], .prsParseIgnore (buf "$GPGGA,"), .hdgEvtStart 0x10#8 0#8, .hdgEvtRepstart 0x08#8 0#8, .hdgEvtSlawAck 0x20#8 0#8, .hdgEvtTxdataAck 0x30#8 0#8, .hdgEvtSlarAck 0x48#8 0#8, .hdgEvtRxdataAck 0x58#8 0#8, .hdgEvtRxdataNack 0x50#8 0#8, .hdgEvtOther 0x08#8 0#8] : List Instr).all (fun i => !i.wellFormed standardConfig) = true := by decide +kernel

/-! ## Decode: every constructor from a word written out from R90, R92, R99, R101, R103, R108 -/

theorem test_decode_plain :
    dec1 .op8 [0x00#8] = some .schBegin
      ∧ dec1 .op8 [0x01#8] = some .schWait
      ∧ dec1 .op8 [0x02#8] = some .schTick
      ∧ dec1 .op8 [0x03#8] = some .schOvf
      ∧ dec1 .op8 [0x04#8] = some .schStclr
      ∧ dec1 .op8 [0x11#8] = some .frmDrain
      ∧ dec1 .op8 [0x30#8] = some .hdgBegin
      ∧ dec1 .op8 [0x32#8] = some .hdgPoll
      ∧ dec1 .op8 [0x41#8] = some .encDrain
      ∧ dec1 .op8 [0x50#8] = some .estUpdate
      ∧ dec1 .op8 [0x61#8] = some .gdeAdvance
      ∧ dec1 .op8 [0x63#8] = some .gdeUpdate
      ∧ dec1 .op8 [0x71#8] = some .actStop
      ∧ dec1 .op8 [0x74#8] = some .actUpdate
      ∧ dec1 .op8 [0x75#8] = some .actStartup
      ∧ dec1 .op8 [0x81#8] = some .stoInit
      ∧ dec1 .op8 [0x82#8] = some .stoFind
      ∧ dec1 .op8 [0x84#8] = some .stoWrite := by decide +kernel

theorem test_decode_operands :
    dec1 .op8 [0x10#8, 0x24#8] = some (.frmRx 0x24#8)
      ∧ dec1 .op8 [0x31#8, 0x50#8, 0x0A#8] = some (.hdgEvt 0x50#8 0x0A#8)
      ∧ dec1 .op8 [0x40#8, 0x02#8] = some (.encEdge 0b10#2)
      ∧ dec1 .op8 [0x60#8, 0x01#8, 0x00#8, 0x00#8, 0x80#8, 0x3F#8, 0x00#8, 0x00#8, 0x00#8, 0xC0#8] = some (.gdeCrossed 1#8 0x3F800000#32 0xC0000000#32)
      ∧ dec1 .op8 [0x62#8, 0x00#8, 0x00#8, 0x80#8, 0x3F#8, 0x00#8, 0x00#8, 0x00#8, 0xC0#8, 0xDB#8, 0x0F#8, 0x49#8, 0x40#8] = some (.gdeAngle 0x3F800000#32 0xC0000000#32 0x40490FDB#32)
      ∧ dec1 .op8 [0x70#8, 0x01#8] = some (.actFwd 1#8)
      ∧ dec1 .op8 [0x72#8, 0x00#8] = some (.actRev 0#8)
      ∧ dec1 .op8 [0x73#8, 0x00#8, 0x00#8, 0x80#8, 0x3E#8] = some (.actSteer 0x3E800000#32)
      ∧ dec1 .op8 [0x80#8, 0x11#8, 0x00#8, 0x00#8, 0x01#8, 0x02#8, 0x00#8] = some (.stoCmd 0x11#6 0x102#32 0x00#8)
      ∧ dec1 .op8 [0x83#8, 0x01#8, 0x02#8, 0x03#8, 0x04#8] = some (.stoReadblk 0x01020304#32)
      ∧ dec1 .op8 [0x90#8, 0x00#8] = some (.plsStart .steering)
      ∧ dec1 .op8 [0x91#8, 0x01#8] = some (.plsMatch .throttle)
      ∧ dec1 .op8 [0x92#8, 0x01#8] = some (.plsTick .throttle) := by decide +kernel

theorem test_decode_lines :
    dec1 .op8 (0x20#8 :: buf "$A*41") = some (.prsChk (buf "$A*41"))
      ∧ dec1 .op8 (0x21#8 :: buf "$A*41") = some (.prsParse (buf "$A*41"))
      ∧ dec1 .op8 (0x22#8 :: buf "$A*41") = some (.prsGga (buf "$A*41"))
      ∧ dec1 .op8 (0x23#8 :: buf "$A*41") = some (.prsRmc (buf "$A*41")) := by decide +kernel

theorem test_decode_rxByte :
    dec1 .rxByte [0x24#8] = some .frmRxStart
      ∧ dec1 .rxByte [0x0A#8] = some .frmRxTerm
      ∧ dec1 .rxByte [0x0D#8] = some (.frmRxData 0x0D#8) := by decide +kernel

theorem test_decode_type6 :
    dec1 .type6 (buf "$GPGGA,1") = some (.prsParseGga ((buf "$GPGGA,1").drop 6))
      ∧ dec1 .type6 (buf "$GPRMC,1") = some (.prsParseRmc ((buf "$GPRMC,1").drop 6))
      ∧ dec1 .type6 (buf "$GPGSA,A") = some (.prsParseIgnore (buf "$GPGSA,A")) := by decide +kernel

theorem test_decode_twEvt :
    dec1 .twEvt [0x08#8, 0x00#8] = some (.hdgEvtStart 0x08#8 0#8)
      ∧ dec1 .twEvt [0x10#8, 0x00#8] = some (.hdgEvtRepstart 0x10#8 0#8)
      ∧ dec1 .twEvt [0x1B#8, 0x00#8] = some (.hdgEvtSlawAck 0x1B#8 0#8)
      ∧ dec1 .twEvt [0x28#8, 0x00#8] = some (.hdgEvtTxdataAck 0x28#8 0#8)
      ∧ dec1 .twEvt [0x40#8, 0x00#8] = some (.hdgEvtSlarAck 0x40#8 0#8)
      ∧ dec1 .twEvt [0x50#8, 0x0A#8] = some (.hdgEvtRxdataAck 0x50#8 0x0A#8)
      ∧ dec1 .twEvt [0x58#8, 0x8C#8] = some (.hdgEvtRxdataNack 0x58#8 0x8C#8)
      ∧ dec1 .twEvt [0x20#8, 0x00#8] = some (.hdgEvtOther 0x20#8 0#8) := by decide +kernel

theorem test_decode_qCode :
    dec1 .qCode [0x00#8] = some .encEdgeNochg
      ∧ dec1 .qCode [0x01#8] = some .encEdgeB
      ∧ dec1 .qCode [0x02#8] = some .encEdgeA
      ∧ dec1 .qCode [0x03#8] = some .encEdgeBoth := by decide +kernel

theorem test_decode_cmd48 :
    dec1 .cmd48 [0x40#8, 0x00#8, 0x00#8, 0x00#8, 0x00#8, 0x95#8] = some .stoCmdReset
      ∧ dec1 .cmd48 [0x48#8, 0x00#8, 0x00#8, 0x01#8, 0xAA#8, 0x87#8] = some .stoCmdIfcond
      ∧ dec1 .cmd48 [0x77#8, 0x00#8, 0x00#8, 0x00#8, 0x00#8, 0x00#8] = some .stoCmdApp
      ∧ dec1 .cmd48 [0x69#8, 0x40#8, 0x00#8, 0x00#8, 0x00#8, 0x01#8] = some .stoCmdOpcond
      ∧ dec1 .cmd48 [0x7A#8, 0x00#8, 0x00#8, 0x00#8, 0x00#8, 0x01#8] = some .stoCmdReadocr
      ∧ dec1 .cmd48 [0x49#8, 0x00#8, 0x00#8, 0x00#8, 0x00#8, 0x00#8] = some .stoCmdReadcsd
      ∧ dec1 .cmd48 [0x51#8, 0x00#8, 0x00#8, 0x01#8, 0x00#8, 0x00#8] = some (.stoCmdReadblk 0x100#32)
      ∧ dec1 .cmd48 [0x58#8, 0x00#8, 0x00#8, 0x00#8, 0x03#8, 0x00#8] = some (.stoCmdWriteblk 3#32) := by decide +kernel

theorem test_decode_refuses :
    dec1 .op8 [0x05#8] = none ∧ dec1 .op8 [0xA0#8] = none ∧ dec1 .op8 [0x90#8, 0x02#8] = none ∧ dec1 .op8 [0x40#8, 0x04#8] = none
      ∧ dec1 .op8 [0x80#8, 0x40#8, 0#8, 0#8, 0#8, 0#8, 0#8] = none ∧ dec1 .qCode [0x04#8] = none ∧ dec1 .cmd48 [0x40#8, 0#8, 0#8, 0#8, 0#8, 0x94#8] = none
      ∧ dec1 .cmd48 [0x00#8, 0#8, 0#8, 0#8, 0#8, 0x95#8] = none ∧ dec1 .op8 [0x10#8] = none := by decide +kernel

theorem test_decodeTableWord :
    decodeTableWord 8 0x81 = some .stoInit ∧ decodeTableWord 48 0x400000000095 = some .stoCmdReset
      ∧ decodeTableWord 2 2 = some .encEdgeA ∧ decodeTableWord 8 0x24 = some .frmRxStart := by decide +kernel

theorem test_withFetchWord_runs :
    nextIs (step (State.reset.withFetchWord 8 0x41)) (fun t => t.blk.phase == 4#4) = true := by decide +kernel

/-! ## Single steps: the vectors of `95_test_vectors.md` -/

theorem test_V1_schBegin :
    nextIs (exec .schBegin (at' fun b => { b with sch := ⟨0x3A98, true⟩, record := { b.record with cycle := 41#32 } }))
      (fun t => t.blk.record.cycle == 42#32 && t.blk.sch == ⟨0, false⟩ && t.blk.phase == 1#4) = true := by decide +kernel

theorem test_V2_schBegin_wraps :
    nextIs (exec .schBegin (rec' fun r => { r with cycle := 0xFFFFFFFF#32 })) (fun t => t.blk.record.cycle == 0#32) = true := by decide +kernel

theorem test_V5_schTick_wraps :
    nextIs (exec .schTick (at' fun b => { b with sch := ⟨0xFFFF, false⟩, irq := ⟨true, []⟩ }))
      (fun t => t.blk.sch.count == 0 && t.blk.irq.pending == [.ovf]) = true := by decide +kernel

theorem test_V7_schWait :
    nextIs (exec .schWait (at' fun b => { b with sch := ⟨19999, false⟩, phase := 9#4 })) (fun t => t.blk.phase == 9#4) = true := by decide +kernel

theorem test_V11_schWait_overrun_first :
    nextIs (exec .schWait (at' fun b => { b with sch := ⟨20000, true⟩ }))
      (fun t => t.blk.record.status == 0x100#32 && t.blk.phase == 0#4) = true := by decide +kernel

theorem test_V12_schStclr :
    nextIs (exec .schStclr (rec' fun r => { r with status := 0x121#32 })) (fun t => t.blk.record.status == 0#32 && t.blk.phase == 9#4) = true := by decide +kernel

theorem test_V20_line :
    nextIs (execAll ((ascii "$A*41" ++ [0x0A#8]).map .frmRx) State.reset)
      (fun t => t.blk.frm.slots.head? == some .ready && (slotText t.blk 0).take 7 == [0x24#8, 0x41#8, 0x2A#8, 0x34#8, 0x31#8, 0x0A#8, 0#8]
        && t.blk.frm.cur == none) = true := by decide +kernel

theorem test_V22_restart :
    nextIs (execAll ((ascii "$GP$A*41" ++ [0x0A#8]).map .frmRx) State.reset)
      (fun t => t.blk.frm.restart && (slotText t.blk 0).take 7 == [0x24#8, 0x41#8, 0x2A#8, 0x34#8, 0x31#8, 0x0A#8, 0#8]) = true := by decide +kernel

theorem test_R139_overflow :
    nextIs (exec (.frmRx 0x41#8) (at' fun b => { b with frm := { b.frm with slots := [.claimed, .free, .free, .free], cur := some 0, w := 82 } }))
      (fun t => memRead 82 t.blk.mem == 0x41#8 && t.blk.frm.w == 82 && t.blk.frm.overflow) = true := by decide +kernel

theorem test_V31_drain_latches :
    nextIs (exec .frmDrain (at' fun b => { b with frm := { b.frm with nobuf := true, restart := true, overflow := true } }))
      (fun t => t.blk.record.status == 0x1C#32 && t.blk.phase == 2#4 && !t.blk.frm.nobuf) = true := by decide +kernel

theorem test_V33_drain_bad_checksum :
    nextIs (exec .frmDrain (at' fun b => { b with mem := memWriteList 0 (ascii "$A*42" ++ [0x0A#8]) [], frm := { b.frm with slots := [.ready, .free, .free, .free] } }))
      (fun t => t.blk.record.status == 0x20#32 && (rawText t.blk 0).take 6 == ascii "$A*42" ++ [0x0A#8] && t.blk.frm.slots.head? == some .free) = true := by decide +kernel

theorem test_V40_to_V54_checksum :
    checksumOk (buf "$GPGGA,123519,4807.038,N,01131.000,E,1,08,0.9,545.4,M,,,,*1F") = true
      ∧ checksumOk (buf "$GPGGA,123519,4807.038,N,01131.000,E,1,08,0.9,545.4,M,,,,*47") = false
      ∧ checksumOk (buf "$GPRMC,123519,A,4807.038,N,01131.000,E,022.4,084.4,230394,003.1,W*6A") = true
      ∧ checksumOk (buf "$A*41") = true
      ∧ checksumOk (buf "$*00") = true
      ∧ checksumOk (buf "$A*4a") = false
      ∧ checksumOk (buf "$J*4a") = true
      ∧ checksumOk (buf "$A*4G") = false
      ∧ checksumOk (buf "$A41") = false
      ∧ checksumOk (buf "") = false
      ∧ checksumOk (buf "XA*41") = true
      ∧ checksumOk (buf "$A*41*6A") = true := by decide +kernel

theorem test_V52_V53_checksum_end :
    checksumOk (ascii "$" ++ List.replicate 80 0x41#8 ++ ascii "*00") = true
      ∧ checksumOk (ascii "$" ++ List.replicate 81 0x41#8 ++ ascii "*0") = false := by decide +kernel

theorem test_V60_gga :
    nextIs (exec (.prsParse (buf "$GPGGA,123519,4807.038,N,01131.000,E,1,08,0.9,545.4,M,,,,*1F")) State.reset)
      (fun t => t.blk.record.gpsLat == 0x4240781E#32 && t.blk.record.gpsLon == 0x41384444#32 && t.blk.record.gpsHdop == 0x3F666666#32
        && t.blk.record.gpsAlt == 0x4408599A#32 && t.blk.record.gpsX == 0x47165540#32 && t.blk.record.gpsY == 0x464C0835#32
        && t.blk.record.status == 1#32) = true := by decide +kernel

theorem test_V62_gga_south_west :
    nextIs (exec (.prsGga (buf "$GPGGA,000000,3345.000,S,07030.000,W,2,05,1.5,10.0,M,,,,*28")) State.reset)
      (fun t => t.blk.record.gpsLat == 0xC2070000#32 && t.blk.record.gpsLon == 0xC28D0000#32) = true := by decide +kernel

theorem test_V61_gga_no_fix :
    nextIs (exec (.prsGga (buf "$GPGGA,123519,4807.038,N,01131.000,E,0,08,0.9,545.4,M,,,,*1E")) State.reset) (fun t => t == State.reset) = true := by decide +kernel

theorem test_V63_rmc :
    nextIs (exec (.prsRmc (buf "$GPRMC,123519,A,4807.038,N,01131.000,E,022.4,084.4,230394,003.1,W*6A")) State.reset)
      (fun t => t.blk.record.gpsSpeed == 0x41B33333#32 && t.blk.record.gpsCourse == 0x42A8CCCD#32 && t.blk.record.gpsDate == 230394#32
        && t.blk.record.gpsMagvar == 0xC0466666#32 && t.blk.record.status == 2#32) = true := by decide +kernel

theorem test_V64_rmc_invalid :
    nextIs (exec (.prsRmc (buf "$GPRMC,123519,V,4807.038,N,01131.000,E,022.4,084.4,230394,003.1,W*7D")) State.reset) (fun t => t == State.reset) = true := by decide +kernel

theorem test_dec_examples :
    dec (ascii "") = 0#32 ∧ dec (ascii "12abc") = 0x41400000#32 ∧ dec (ascii "abc") = 0#32 ∧ dec (ascii "-3.5") = 0xC0600000#32
      ∧ dec (ascii ".5") = 0x3F000000#32 ∧ dec (ascii "1.2.3") = 0x3F99999A#32 ∧ dec (ascii "1e3") = 0x3F800000#32
      ∧ decInt (ascii "230394") = 230394#32 ∧ decInt (ascii "23x") = 23#32 ∧ dmToDeg 0x45511000#32 = 0x42070000#32 := by decide +kernel

theorem test_V70_hdgBegin :
    nextIs (exec .hdgBegin State.reset) (fun t => t.blk.hdg.busy && t.blk.env.twIssued == [.start]) = true := by decide +kernel

theorem test_V71_start :
    nextIs (exec (.hdgEvt 0x08#8 0#8) (at' fun b => { b with hdg := { b.hdg with busy := true } })) (fun t => t.blk.env.twIssued == [.send 0xC0#8] && t.blk.hdg.state == .addressedForWrite) = true := by decide +kernel

theorem test_V74_repstart :
    nextIs (exec (.hdgEvtRepstart 0x10#8 0#8) (at' fun b => { b with hdg := { b.hdg with state := .repeatStart } })) (fun t => t.blk.env.twIssued == [.send 0xC1#8]) = true := by decide +kernel

theorem test_V77_nack :
    nextIs (exec (.hdgEvt 0x58#8 0x8C#8) (at' fun b => { b with hdg := { b.hdg with state := .highByteReceived, hi := 0x0A#8 } })) (fun t => t.blk.hdg.value == 0x0A8C#16 && t.blk.hdg.state == .done) = true := by decide +kernel

theorem test_V79_wrong_state :
    nextIs (exec (.hdgEvt 0x18#8 0#8) (at' fun b => { b with hdg := { b.hdg with state := .registerSent } })) (fun t => t.blk.hdg.value == 0xFFFF#16 && t.blk.hdg.state == .error) = true := by decide +kernel

theorem test_V82_poll_ready :
    nextIs (exec .hdgPoll (at' fun b => { b with hdg := { b.hdg with state := .done, value := 2700#16 } }))
      (fun t => t.blk.record.hdgRaw == 2700#16 && t.blk.record.hdgDeg == 0x43870000#32 && t.blk.record.hdgRad == 0x4096CBE4#32
        && t.blk.ret == .poll (.ready 2700#16) && t.blk.phase == 3#4) = true := by decide +kernel

theorem test_V83_poll_error :
    nextIs (exec .hdgPoll (at' fun b => { b with hdg := { b.hdg with state := .error } })) (fun t => t.blk.record.status == 0x40#32 && t.blk.record.hdgRaw == 0xFFFF#16) = true := by decide +kernel

theorem test_V90_forward :
    nextIs (execAll ([0b10#2, 0b11#2, 0b01#2, 0b00#2].map .encEdge) State.reset) (fun t => t.blk.enc.cell0 == ⟨false, 4#16⟩) = true := by decide +kernel

theorem test_V91_backward :
    nextIs (execAll ([0b01#2, 0b11#2, 0b10#2, 0b00#2].map .encEdge) State.reset) (fun t => t.blk.enc.cell0 == ⟨false, -4#16⟩) = true := by decide +kernel

theorem test_V92_both :
    nextIs (exec .encEdgeBoth (at' fun b => { b with enc := { b.enc with cell0 := ⟨false, 7#16⟩, qPrev := 0#2 } })) (fun t => t.blk.enc.cell0 == ⟨true, 7#16⟩ && t.blk.enc.qPrev == 0b11#2) = true := by decide +kernel

theorem test_V95_wraps :
    nextIs (exec .encEdgeA (at' fun b => { b with enc := { b.enc with cell0 := ⟨false, 0x7FFF#16⟩, qPrev := 0#2 } })) (fun t => t.blk.enc.cell0.count == 0x8000#16) = true := by decide +kernel

theorem test_V98_drain :
    nextIs (exec .encDrain (at' fun b => { b with enc := { cell0 := ⟨false, 37#16⟩, cell1 := ⟨true, 5#16⟩, active := 1, qPrev := 0#2 } }))
      (fun t => t.blk.enc.cell0 == ⟨false, 0#16⟩ && t.blk.record.encTicks == 5#16 && t.blk.record.encValid == 0#8 && t.blk.record.status == 0x80#32) = true := by decide +kernel

theorem test_V100_fix :
    nextIs (exec .estUpdate (rec' fun r => { r with status := 1#32, gpsX := 0x41480000#32, gpsY := 0xC0400000#32, hdgRad := 0x3F800000#32 }))
      (fun t => t.blk.record.estX == 0x41480000#32 && t.blk.record.estY == 0xC0400000#32 && t.blk.record.estHeading == 0x3F800000#32) = true := by decide +kernel

theorem test_V101_dead_reckoning :
    nextIs (exec .estUpdate (rec' fun r => { r with estX := 0x40400000#32, estY := 0x40800000#32, encValid := 1#8, encTicks := 10#16 }))
      (fun t => t.blk.record.estX == 0x41000000#32 && t.blk.record.estY == 0x40800000#32) = true := by decide +kernel

theorem test_V104_hold :
    nextIs (exec .estUpdate (rec' fun r => { r with status := 0x80#32, estX := 0x40400000#32, hdgRad := 0x40000000#32 }))
      (fun t => t.blk.record.estX == 0x40400000#32 && t.blk.record.estHeading == 0x40000000#32) = true := by decide +kernel

theorem test_V110_V111_crossed :
    crossed standardConfig { standardWaypoint0 with normU := 0x3F800000#32, normV := 0#32, boundX := 0#32, boundY := 0x41200000#32 } 0#32 0x41700000#32 = true
      ∧ crossed standardConfig { standardWaypoint0 with normU := 0x3F800000#32, normV := 0#32, boundX := 0#32, boundY := 0x41200000#32 } 0#32 0x40A00000#32 = false := by decide +kernel

theorem test_V113_source_scenario :
    [GateTest.cross, .dot].map (fun g => crossed { standardConfig with gateTest := g } { standardWaypoint0 with boundX := 0#32, boundY := 0x41200000#32 } 0#32 0x41700000#32) = [false, true] := by decide +kernel

/-- Straight ahead, straight behind, at the position itself. -/
theorem test_V121_V122_V124_angle :
    [(0x41A00000#32, 0#32), (0xC1A00000#32, 0#32), (0x41A00000#32, 0x41A00000#32)].map
      (fun p => targetAngle { standardWaypoint0 with posX := p.1, posY := 0#32 } p.2 0#32 0#32) = [0#32, 0#32, 0#32] := by decide +kernel

/-- At right angles on either side the quotient is 1 and -1, of which the arcsine is +pi/2 and -pi/2. -/
theorem test_V123_right_angle :
    [0x40E00000#32, 0xC0E00000#32].map (fun y =>
      f32Div (f32Sub (f32Mul (f32Cos 0#32) y) (f32Mul (f32Sin 0#32) 0#32)) (f32Sqrt (f32Add 0#32 (f32Mul y y))))
        = [0x3F800000#32, 0xBF800000#32]
    ∧ ((∃ q, (q = f32HalfPiBelow ∨ q = f32HalfPi) ∧ f32Asin 0x3F800000#32 = f32Pack false q)
    ∧ ∃ q, (q = f32HalfPiBelow ∨ q = f32HalfPi) ∧ f32Asin 0xBF800000#32 = f32Pack true q) := by
  refine ⟨by decide +kernel, ?_, ?_⟩
  · obtain ⟨h, -⟩ | ⟨-, q, -, -, he, hq⟩ := f32Asin_eq (r := 0x3F800000#32) (by decide)
    · exact absurd h (by decide +kernel)
    · exact ⟨q, hq (by decide +kernel), he⟩
  · obtain ⟨h, -⟩ | ⟨-, q, -, -, he, hq⟩ := f32Asin_eq (r := 0xBF800000#32) (by decide)
    · exact absurd h (by decide +kernel)
    · exact ⟨q, hq (by decide +kernel), he⟩

theorem test_V116_V117_advance :
    nextIs (exec .gdeAdvance (rec' fun r => { r with estX := 0x41700000#32 })) (fun t => t.blk.record.wpIndex == 1#8) = true
      ∧ nextIs (exec .gdeAdvance (rec' fun r => { r with estX := 0x41700000#32, estY := 0x41700000#32 })) (fun t => t.blk.record.wpIndex == 2#8) = true := by decide +kernel

theorem test_V131_fwd :
    nextIs (exec (.actFwd 0#8) (at' fun b => { b with record := { b.record with throttleUs := 1400#16 }, act := ⟨.reverse, 0#8⟩ })) (fun t => t.blk.record.throttleUs == 1600#16 && t.blk.act.drive == .forward) = true := by decide +kernel

theorem test_V132_stop :
    nextIs (execAll [.actStop, .actStop] (at' fun b => { b with record := { b.record with throttleUs := 1700#16 }, act := ⟨.forward, 0#8⟩ })) (fun t => t.blk.record.throttleUs == 1500#16 && t.blk.act.drive == .neutral) = true := by decide +kernel

theorem test_V134_stop_reverse :
    nextIs (execAll [.actStop, .actStop] (at' fun b => { b with record := { b.record with throttleUs := 1380#16 }, act := ⟨.reverse, 0#8⟩ })) (fun t => t.blk.record.throttleUs == 1480#16 && t.blk.act.drive == .reverse) = true := by decide +kernel

theorem test_V137_rev :
    nextIs (execAll (List.replicate 5 (.actRev 0#8)) State.reset) (fun t => t.blk.record.throttleUs == 1420#16 && t.blk.act == ⟨.reverse, 2#8⟩) = true := by decide +kernel

theorem test_V140_rev_faster :
    nextIs (execAll [.actRev 1#8, .actRev 1#8, .actRev 1#8] (at' fun b => { b with record := { b.record with throttleUs := 1400#16 }, act := ⟨.reverse, 0#8⟩ })) (fun t => t.blk.record.throttleUs == 1300#16) = true := by decide +kernel

theorem test_S5_steer :
    [0x3E800000#32, 0x3F490E56#32, 0xC0400000#32, 0x7F800000#32, 0xFF800000#32, 0x7FC00000#32, 0x80000000#32].map (fun a => steerWidth standardConfig (clampAngle standardConfig a))
      = [1700#16, 1900#16, 1100#16, 1900#16, 1100#16, 1500#16, 1500#16] := by decide +kernel

theorem test_V142_tick :
    nextIs (exec (.plsTick .throttle) (at' fun b => { b with throttle := ⟨true, 3000#16, 2999#16, true⟩, irq := ⟨true, []⟩ })) (fun t => t.blk.irq.pending == [.cm .throttle]) = true := by decide +kernel

theorem test_V145_update :
    nextIs (exec .actUpdate State.reset) (fun t => t.blk.record.steerUs == 1500#16 && t.blk.record.throttleUs == 1600#16 && t.blk.steer.ocr == 3000#16
        && t.blk.throttle == ⟨true, 3200#16, 0#16, true⟩ && t.blk.phase == 7#4) = true := by decide +kernel

theorem test_V147_startup :
    nextIs (exec .actStartup State.reset) (fun t => t.blk.steer.ocr == 3000#16 && t.task == some (.startup 2)) = true := by decide +kernel

theorem test_V150_reset :
    nextIs (exec .stoCmdReset (with' standardConfig (.reference emptyDevice)))
      (fun t => t.blk.env.spiSent == [0xFF#8, 0x95#8, 0#8, 0#8, 0#8, 0#8, 0x40#8] && t.blk.ret == .answer (some 0x01#8)) = true := by decide +kernel

theorem test_V151_timeout :
    nextIs (exec .stoCmdReset (with' standardConfig (.script (List.replicate 14 0xFF#8)))) (fun t => t.blk.ret == .answer none && t.blk.env.spiSent.length == 14) = true := by decide +kernel

theorem test_V152_ifcond :
    nextIs (exec .stoCmdIfcond (with' standardConfig (.reference emptyDevice))) (fun t => t.blk.ret == .flag true && !t.blk.sto.cs) = true := by decide +kernel

theorem test_V156_readocr :
    nextIs (exec .stoCmdReadocr (with' standardConfig (.reference emptyDevice))) (fun t => t.blk.ret == .word (some 0xC0FF8000#32)) = true
      ∧ blockAddressed (some 0xC0FF8000#32) = true ∧ blockAddressed (some 0x80FF8000#32) = false := by decide +kernel

theorem test_V158_V159_capacity :
    [[0x00#8, 0x3B#8, 0x37#8], [0xFF#8, 0xFF#8, 0xFF#8]].map (fun size =>
        (setCapacity.run (at' fun b => { b with sto := { b.sto with csd := List.replicate 7 0#8 ++ size } }).blk).2.sto.capacityBlocks)
      = [7761920#32, 0x80000000#32] := by decide +kernel

/-- V161 with blocks of 128 bytes -/
theorem test_init_small :
    nextIs (exec .stoInit (with' smallConfig (.reference emptyDevice))) (fun t => t.blk.sto.enabled && t.blk.sto.nextBlock == 0#32 && t.blk.sto.capacityBlocks == 512#32
        && t.blk.sto.fast && !t.blk.sto.cs) = true := by decide +kernel

/-- V162 with blocks of 128 bytes -/
theorem test_write_small :
    nextIs (exec .stoWrite ((with' smallConfig (.reference emptyDevice)).mapBlk fun b => { b with sto := { b.sto with enabled := true, nextBlock := 3#32, capacityBlocks := 512#32 } })) (fun t => t.blk.sto.nextBlock == 4#32 && t.blk.env.spiSent.length == 141
        && (match t.blk.env.device with | .reference d => memReadList 384 4 d.blk == [0xEF#8, 0xBE#8, 0xAD#8, 0xDE#8] | _ => false)) = true := by decide +kernel

theorem test_V163_V164_busy :
    [7, 8].map (fun n => nextIs (exec .stoWrite ((with' smallConfig (.reference { emptyDevice with busyN := n })).mapBlk fun b =>
      { b with sto := { b.sto with enabled := true, nextBlock := 3#32, capacityBlocks := 512#32 } })) (fun t => t.blk.sto.enabled)) = [true, false] := by decide +kernel

/-- R67: the write of `status` in `SCH.STCLR` is four accesses; after one of them the low byte alone is cleared. -/
theorem test_R67_stclr_bytes :
    nextIs (mainStep { (at' fun b => { b with phase := 8#4, record := { b.record with status := 0x121#32 } }) with boot := .loop })
      (fun t => t.blk.record.status == 0x100#32 && t.task == some (.op .schStclr [0])) = true := by decide +kernel

/-- R264: between the look that ends the wait and the clearing of the flag the timer may wrap; the new pulse starts with `OVF`
pending. -/
theorem test_R264_wrap_before_pulse :
    nextIs (mainStep { (at' fun b => { b with sch := ⟨0xFFFF, false⟩, irq := ⟨true, []⟩ }) with task := some (.startup 1) })
      (fun t => nextIs (exec .schTick t) fun u =>
        (runTask 6 u).task == some (.startup 0) && (runTask 6 u).blk.irq.pending == [.ovf] && (runTask 6 u).blk.steer.run) = true := by
  decide +kernel

/-- S3 with 8 blocks: probes 0, 4, 2, 3 -/
theorem test_S3_search :
    nextIs (exec .stoFind ((with' smallConfig (.reference { emptyDevice with nb := 8, blk := memWriteList 0 (guardImage standardConfig) (memWriteList 128 (guardImage standardConfig) (memWriteList 256 (guardImage standardConfig) [])) })).mapBlk
      fun b => { b with sto := { b.sto with capacityBlocks := 8#32 } })) (fun t => t.blk.ret == .word (some 3#32) && t.blk.env.spiSent.length == 4 * 139) = true := by decide +kernel

theorem test_P5_record_image :
    recordImage (rec' fun r => { r with cycle := 1#32 }).blk = [0xEF#8, 0xBE#8, 0xAD#8, 0xDE#8, 0x01#8, 0#8, 0#8, 0#8] ++ List.replicate 410 0#8 ++ [0xDC#8, 0x05#8, 0xDC#8, 0x05#8]
      ++ List.replicate 86 0#8 ++ [0x0D#8, 0xF0#8, 0xAD#8, 0xBA#8] := by decide +kernel

/-! ## Witnesses: states and operands that meet the hypotheses of the statements, each clause at a boundary value -/

/-- The reset state with another configuration. -/
def cfg' (c : Config) : State := with' c .unknown

/-- A framer with the given slots, claim and cursor. -/
def frm' (slots : List SlotStatus) (cur : Option Nat) (w : Nat) : State :=
  at' fun b => { b with frm := { b.frm with slots := slots, cur := cur, w := w } }

/-- The switch `OVERFLOW_LATCH` set, and the slot's line already overflowed. -/
def ignoring : State :=
  (frm' [.claimed, .free, .free, .free] (some 0) 82).mapBlk fun b =>
    { b with cfg := { b.cfg with overflowLatch := true }, frm := { b.frm with dropping := true } }

/-- The heading driver in a state. -/
def hdg' (st : HState) (busy : Bool) : State := at' fun b => { b with hdg := { b.hdg with state := st, busy := busy } }

/-- The actuation registers in a state. -/
def act' (d : DriveState) (us : U16) (hold : Byte) : State :=
  at' fun b => { b with record := { b.record with throttleUs := us }, act := { drive := d, hold := hold } }

/-- A state of the cycle loop with a phase and an operation in progress. -/
def loop' (p : BitVec 4) (task : Option Task) : State :=
  { (at' fun b => { b with phase := p, irq := ⟨true, []⟩ }) with boot := .loop, task := task }

/-- In the cycle, driving forward, with one line finished, a second begun, and two events waiting. -/
def goodState : State :=
  (loop' 1#4 none).mapBlk fun b =>
    { b with mem := memWriteList 0 (ascii "$A*41" ++ [0x0A#8]) (memWriteList 84 (ascii "$GP") [])
             frm := { b.frm with slots := [.ready, .claimed, .free, .free], cur := some 1, w := 3 }
             record := { b.record with throttleUs := 1700#16, wpIndex := 2#8, status := 0x1FF#32 }
             act := { drive := .forward, hold := 2#8 }, irq := ⟨true, [.rx 0x0A#8, .qe]⟩ }

theorem exists_next {o : Host.Outcome State Fault Refusal} (h : nextIs o (fun _ => true) = true) : ∃ t, o = .next t := by
  cases o with
  | next t => exact ⟨t, rfl⟩
  | fault e => cases h
  | refused r => cases h

theorem witness_DecodeInvertsEncode :
    standardConfig.ok = true ∧ (Instr.actFwd 1#8).wellFormed standardConfig = true
      ∧ (Instr.gdeCrossed 2#8 0#32 0#32).wellFormed standardConfig = true
      ∧ (Instr.prsGga (buf "$GPGGA,")).wellFormed standardConfig = true := by decide +kernel

theorem witness_EncodeInvertsDecode :
    standardConfig.ok = true ∧ decode standardConfig .op8 [0x70#8, 0x01#8, 0x55#8] = .ok (.actFwd 1#8, [0x55#8]) :=
  ⟨by decide +kernel, rfl⟩

/-- Codes just above a unit's last function and at both ends of the reserved units. -/
theorem witness_ReservedCodesRefused :
    State.reset.blk.cfg.ok = true ∧ ∀ code ∈ [0x05#8, 0x93#8, 0xA0#8, 0xFF#8],
      code.toNat ∉ [0x00, 0x01, 0x02, 0x03, 0x04, 0x10, 0x11, 0x20, 0x21, 0x22, 0x23, 0x30, 0x31, 0x32, 0x40, 0x41, 0x50,
        0x60, 0x61, 0x62, 0x63, 0x70, 0x71, 0x72, 0x73, 0x74, 0x75, 0x80, 0x81, 0x82, 0x83, 0x84, 0x90, 0x91, 0x92]
      ∧ ({ State.reset with script := [.wire ⟨.op8, [code]⟩] } : State).script = .wire ⟨.op8, [code]⟩ :: [] := by
  decide +kernel

/-- With nothing left over, and with a second instruction left over. -/
theorem witness_StepRunsDecodedInstruction :
    State.reset.blk.cfg.ok = true
      ∧ decode standardConfig .op8 [0x02#8] = .ok (.schTick, []) ∧ decode standardConfig .op8 [0x02#8, 0x04#8] = .ok (.schTick, [0x04#8]) :=
  ⟨by decide +kernel, rfl, rfl⟩

/-- An event of each source pending, each in its place. -/
theorem witness_HandlerStepRunsItsOperation :
    ∀ p ∈ [(0, Event.rx 0x24#8), (1, .tw 0x08#8 0#8), (2, .qe), (3, .cm .steering), (4, .ovf)],
      (fun s : State => s.blk.cfg.ok = true ∧ s.script = .arrival (.handler p.1) :: [] ∧ s.blk.irq.pending[p.1]? = some p.2)
        { (at' fun b => { b with irq := ⟨true, [.rx 0x24#8, .tw 0x08#8 0#8, .qe, .cm .steering, .ovf]⟩ }) with
            script := [.arrival (.handler p.1)] } := by decide +kernel

theorem witness_HandlersCommute :
    sourceOf (.rx 0x24#8) ≠ sourceOf .ovf ∧ sourceOf (.cm .steering) ≠ sourceOf (.cm .throttle)
      ∧ (∀ e ∈ [Event.rx 0x24#8, .ovf, .cm .steering, .cm .throttle],
          nextIs (exec (handlerOf e goodState.blk) goodState) (fun _ => true) = true) := by decide +kernel

theorem witness_MicroStepsMakeTheOperation :
    ∀ p ∈ [(LoopOp.frmDrain, Instr.frmDrain), (.hdgPoll, .hdgPoll), (.encDrain, .encDrain), (.estUpdate, .estUpdate),
        (.gdeUpdate, .gdeUpdate), (.actUpdate, .actUpdate), (.stoWrite, .stoWrite), (.schStclr, .schStclr), (.actStartup, .actStartup),
        (.stoInit, .stoInit), (.hdgBegin, .hdgBegin)],
      loopInstr p.1 = some p.2 ∧ nextIs (exec p.2 (with' smallConfig (.reference emptyDevice))) (fun _ => true) = true := by
  decide +kernel

/-- The first and the last byte of the widths 8, 16 and 32, and of a counter of 12 bits. -/
theorem witness_WideAccessesAreSingleBytes :
    0 < (8 + 7) / 8 ∧ 1 < (16 + 7) / 8 ∧ 0 < (32 + 7) / 8 ∧ 3 < (32 + 7) / 8 ∧ 1 < (12 + 7) / 8 := by decide

theorem witness_BootSequenceInOrder :
    (∀ boot ∈ [Boot.reset, .sample, .enable, .startup, .init, .begin, .enter],
      ({ State.reset with boot := boot } : State).task = none ∧ ({ State.reset with boot := boot } : State).boot = boot
      ∧ State.reset.blk.hdg.state = .idle ∧ State.reset.blk.hdg.busy = false)
    ∧ ∀ p ∈ [(HState.error, false), (.idle, true)],
      (fun s : State => s.task = none ∧ s.boot = .begin ∧ (s.blk.hdg.state ≠ .idle ∨ s.blk.hdg.busy = true))
        { hdg' p.1 p.2 with boot := .begin } := by decide +kernel

/-- Phase 0, phase 9 at the end of the cycle, and an operation in progress in phase 1. -/
theorem witness_CyclePhasesInOrder :
    inCycle (loop' 0#4 none) ∧ inCycle ((loop' 9#4 none).mapBlk fun b => { b with sch := ⟨20000, false⟩ })
      ∧ inCycle (loop' 1#4 (some (.op .frmDrain [0]))) ∧ Arrival.mainLoop ≠ .rst
      ∧ nextIs (applyArrival .mainLoop (loop' 0#4 none)) (fun t => t.blk.phase == 1#4) = true
      ∧ nextIs (applyArrival .mainLoop ((loop' 9#4 none).mapBlk fun b => { b with sch := ⟨20000, false⟩ }))
          (fun t => t.blk.phase == 0#4) = true
      ∧ nextIs (applyArrival .mainLoop (loop' 1#4 (some (.op .frmDrain [0])))) (fun _ => true) = true :=
  ⟨⟨rfl, by decide, .inl rfl⟩, ⟨rfl, by decide, .inl rfl⟩, ⟨rfl, by decide, .inr ⟨.frmDrain, [0], rfl, rfl⟩⟩, by decide +kernel,
    by decide +kernel, by decide +kernel, by decide +kernel⟩

theorem witness_ResetValues :
    goodState.blk.cfg.ok = true
      ∧ ({ goodState with script := [.arrival .rst] } : State).script = .arrival .rst :: [] := by decide +kernel

theorem goodState_framerOk : framerOk goodState.blk := by
  refine ⟨rfl, fun i => ?_, by decide +kernel⟩
  change [SlotStatus.ready, .claimed, .free, .free][i]? = some .claimed ↔ some 1 = some i
  rcases i with _ | _ | _ | _ | i <;> simp

theorem goodState_blk : goodState.blk.Inv where
  cfg := by decide +kernel
  mem := by decide +kernel
  prefixGuard := rfl
  suffixGuard := rfl
  status := by decide +kernel
  phase := by decide +kernel
  waypoint := by decide +kernel
  valid := by decide +kernel
  count := by decide +kernel
  framer := goodState_framerOk
  steerPulse := rfl
  throttlePulse := rfl
  lead := rfl
  csd := rfl
  events := by decide +kernel

theorem goodState_inv : goodState.Inv := ⟨goodState_blk, nofun⟩

/-- `SCH.STCLR` with its four bytes written. -/
def busyState : State := { goodState.mapBlk (fun b => { b with phase := 8#4 }) with task := some (.op .schStclr [0, 0, 0, 0]) }

theorem busyState_inv : busyState.Inv := by
  refine ⟨{ goodState_blk with phase := by decide +kernel }, fun which path h => ?_⟩
  cases h
  exact fun b hb => ⟨⟨{ hb.1 with phase := Nat.le_refl 9 }, hb.2⟩, True.intro⟩

theorem goodState_linesOk : linesOk goodState.blk := by
  refine ⟨fun i h => ?_, fun i h => ?_⟩
  · change [SlotStatus.ready, .claimed, .free, .free][i]? = some .ready at h
    rcases i with _ | _ | _ | _ | i
    · exact ⟨5, by decide +kernel, by decide +kernel, by decide +kernel, by decide +kernel⟩
    all_goals simp at h
  · cases h
    decide +kernel

/-- Good states that have a next state, one with an operation in progress: what three statements assume. -/
theorem witness_InvKeptByEveryStep_NoFaultFromGoodState_ReadyLinesStayFinished :
    goodState.Inv ∧ linesOk goodState.blk ∧ busyState.Inv ∧ linesOk busyState.blk
      ∧ ({ goodState with script := [.arrival (.handler 0)] } : State).Inv
      ∧ nextIs (step { goodState with script := [.arrival (.handler 0)] }) (fun _ => true) = true
      ∧ nextIs (step { goodState with script := [.arrival .mainLoop] }) (fun _ => true) = true
      ∧ nextIs (step { busyState with script := [.arrival .mainLoop] }) (fun _ => true) = true :=
  ⟨goodState_inv, goodState_linesOk, busyState_inv, goodState_linesOk, ⟨goodState_blk, nofun⟩, by decide +kernel, by decide +kernel,
    by decide +kernel⟩

/-- What `DriveStateMatchesWidth` says of a block. -/
def driveOk (b : Block) : Prop :=
  (b.act.drive = .forward → b.cfg.neutralUs.toNat ≤ b.record.throttleUs.toNat)
    ∧ (b.act.drive = .neutral → b.record.throttleUs = b.cfg.neutralUs)
    ∧ (b.act.drive = .preReverse → b.record.throttleUs = b.cfg.preReverseUs ∧ b.act.hold.toNat < b.cfg.preReverseHold)
    ∧ b.act.hold.toNat ≤ b.cfg.preReverseHold

/-- Each drive state, the widths at the ends of their ranges. -/
theorem witness_DriveStateMatchesWidth :
    goodState.Inv ∧ nextIs (exec .actStop goodState) (fun _ => true) = true ∧ driveOk goodState.blk
      ∧ ∀ p ∈ [(DriveState.forward, 1500#16, 2#8), (.neutral, 1500#16, 0#8), (.preReverse, standardConfig.preReverseUs, 1#8), (.reverse, 1000#16, 2#8)],
        driveOk (act' p.1 p.2.1 p.2.2).blk := by
  refine ⟨goodState_inv, by decide +kernel, by unfold driveOk; decide +kernel, ?_⟩
  unfold driveOk
  decide +kernel

/-- With no operation in progress, and with one that has only its phase to write; the index at its end. -/
theorem witness_WaypointIndexNeverDecreases :
    goodState.Inv ∧ climbing goodState ∧ goodState.boot ≠ .reset
      ∧ nextIs (applyArrival .mainLoop goodState) (fun _ => true) = true
      ∧ nextIs (exec .gdeAdvance goodState) (fun _ => true) = true
      ∧ busyState.Inv ∧ climbing busyState ∧ nextIs (applyArrival .mainLoop busyState) (fun _ => true) = true := by
  refine ⟨goodState_inv, nofun, nofun, by decide +kernel, by decide +kernel, busyState_inv, fun which path h => ?_, by decide +kernel⟩
  cases h
  exact fun b _ hi => ⟨Nat.le_of_eq (congrArg BitVec.toNat hi.symm), True.intro⟩

/-- The sources enabled and disabled; the inputs changed and unchanged. -/
theorem witness_EnvironmentMoves :
    goodState.blk.cfg.ok = true ∧ goodState.blk.irq.enabled = true ∧ State.reset.blk.cfg.ok = true
      ∧ State.reset.blk.irq.enabled = false
      ∧ 0b01#2 ≠ BitVec.ofBool goodState.blk.env.qa ++ BitVec.ofBool goodState.blk.env.qb
      ∧ 0b00#2 = BitVec.ofBool goodState.blk.env.qa ++ BitVec.ofBool goodState.blk.env.qb
      ∧ ({ goodState with script := [.arrival (.quad 0b01#2)] } : State).script = .arrival (.quad 0b01#2) :: [] := by decide +kernel

/-- 1 + 2^-24 lies half way between two values: `x` is the other neighbour. -/
theorem witness_ArithmeticRoundsToNearestEven :
    f32Exp 0x3F800000#32 ≠ 255 ∧ f32Exp 0x33800000#32 ≠ 255 ∧ f32Exp 0x3F800001#32 ≠ 255
      ∧ f32Exp (f32Add 0x3F800000#32 0x33800000#32) ≠ 255 ∧ f32Exp (f32Sub 0x3F800000#32 0x33800000#32) ≠ 255
      ∧ f32Exp (f32Mul 0x3F800000#32 0x33800000#32) ≠ 255 ∧ f32Exp (f32Div 0x3F800000#32 0x33800000#32) ≠ 255
      ∧ f32Units 0x33800000#32 ≠ 0 ∧ f32Units 0x3F800001#32 ≠ f32Units (f32Add 0x3F800000#32 0x33800000#32)
      ∧ (f32Units 0x3F800000#32 + f32Units 0x33800000#32 - f32Units (f32Add 0x3F800000#32 0x33800000#32)).natAbs
          = (f32Units 0x3F800000#32 + f32Units 0x33800000#32 - f32Units 0x3F800001#32).natAbs := by decide +kernel

/-- The greatest value plus the last one below the rounding boundary, plus the boundary itself, and a division by zero. -/
theorem witness_ArithmeticRoundsToNearestEven_overflow :
    f32Exp 0x7F7FFFFF#32 ≠ 255 ∧ f32Exp 0x72FFFFFF#32 ≠ 255 ∧ f32Exp 0x73000000#32 ≠ 255 ∧ f32Exp 0x80000000#32 ≠ 255
      ∧ (f32Units 0x7F7FFFFF#32 + f32Units 0x72FFFFFF#32).natAbs < (2 ^ 25 - 1) * 2 ^ 252 * 1
      ∧ (2 ^ 25 - 1) * 2 ^ 252 * 1 ≤ (f32Units 0x7F7FFFFF#32 + f32Units 0x73000000#32).natAbs
      ∧ f32Units 0x80000000#32 = 0 ∧ f32Units 0x7F7FFFFF#32 ≠ 0 := by decide +kernel

theorem witness_SchBeginStartsCycle :
    State.reset.blk.env.runEn = true
      ∧ (at' fun b => { b with env := { b.env with runEn := false } }).blk.env.runEn = false := by decide +kernel

/-- One tick before the end of the cycle, and at it. -/
theorem witness_SchWaitEndsCycle :
    (at' fun b => { b with sch := ⟨19999, true⟩ }).blk.sch.overrun = true
      ∧ (fun s : State => s.blk.sch.overrun = false ∧ s.blk.cfg.cycleTicks ≤ s.blk.sch.count) (at' fun b => { b with sch := ⟨20000, false⟩ })
      ∧ (fun s : State => s.blk.sch.overrun = false ∧ s.blk.sch.count < s.blk.cfg.cycleTicks) (at' fun b => { b with sch := ⟨19999, false⟩ }) := by
  decide +kernel

theorem witness_SchTickOvfStclr :
    (fun s : State => s.blk.sch.count ≠ 2 ^ s.blk.cfg.schedBits - 1) (at' fun b => { b with sch := ⟨65534, false⟩ })
      ∧ (fun s : State => s.blk.sch.count = 2 ^ s.blk.cfg.schedBits - 1 ∧ s.blk.irq.enabled = true)
          (at' fun b => { b with sch := ⟨65535, false⟩, irq := ⟨true, []⟩ })
      ∧ (fun s : State => s.blk.sch.count = 2 ^ s.blk.cfg.schedBits - 1 ∧ s.blk.irq.enabled = false)
          (at' fun b => { b with sch := ⟨65535, false⟩ }) := by decide +kernel

/-- The last slot the only free one, and no slot free. -/
theorem witness_FrmRxClaimsFirstFreeSlot :
    (fun s : State => s.blk.frm.cur = none ∧ s.blk.frm.slots[3]? = some .free ∧ ∀ j : Nat, j < 3 → s.blk.frm.slots[j]? ≠ some .free)
        (frm' [.ready, .ready, .ready, .free] none 0)
      ∧ (fun s : State => s.blk.frm.cur = none ∧ ∀ j : Nat, s.blk.frm.slots[j]? ≠ some .free) (frm' [.ready, .ready, .ready, .ready] none 0) := by
  refine ⟨by decide +kernel, rfl, fun j => ?_⟩
  change [SlotStatus.ready, .ready, .ready, .ready][j]? ≠ some .free
  rcases j with _ | _ | _ | _ | j <;> simp

/-- The cursor at 0 and at its last value, and with the latch of D6. -/
theorem witness_FrmRxStartBeginsLine_FrmRxDataAppends_FrmRxTermCompletesLine :
    ∀ p ∈ [(frm' [.claimed, .free, .free, .free] (some 0) 0, false), (frm' [.claimed, .free, .free, .free] (some 0) 82, false),
        (ignoring, true)],
      Memory.wf p.1.blk.mem = true ∧ p.1.blk.frm.cur = some 0 ∧ 0 < p.1.blk.cfg.nSlots ∧ 8 ≤ p.1.blk.cfg.sentenceCap
      ∧ p.1.blk.frm.w ≤ p.1.blk.cfg.sentenceCap - 2 ∧ (0x41#8 : Byte) ≠ 0x24#8 ∧ (0x41#8 : Byte) ≠ 0x0A#8
      ∧ rxIgnores p.1.blk = p.2 := by decide +kernel

theorem witness_FrmDrainDeliversReadyLines :
    Memory.wf goodState.blk.mem = true ∧ goodState.blk.frm.slots.length = goodState.blk.cfg.nSlots
      ∧ goodState.blk.cfg.nRaw ≤ goodState.blk.cfg.nSlots := by decide +kernel

/-- The payload's last byte. -/
theorem witness_PrsChkDetectsFlippedBit :
    checksumOk (buf "$A*41") = true ∧ (buf "$A*41")[2]? = some 0x2A#8
      ∧ (∀ m, 1 ≤ m → m < 2 → (buf "$A*41")[m]? ≠ some 0x2A#8) ∧ 1 ≤ 1 ∧ 1 < 2 ∧ 7 < 8 ∧ (buf "$A*41")[1]? = some 0x41#8
      ∧ (0x41#8 : Byte) ^^^ (1#8 <<< 7) ≠ 0x2A#8 := by
  refine ⟨by decide +kernel, by decide +kernel, fun m h1 h2 => ?_, by decide, by decide, by decide, by decide +kernel, by decide +kernel⟩
  obtain rfl : m = 1 := by omega
  decide +kernel

theorem witness_PrsAcceptedSentencesWrite_gga :
    (fun line : List Byte => field line 6 ≠ [] ∧ (field line 6).head? ≠ some standardConfig.nofixSentinel)
      ([0x24#8, 0x47#8, 0x50#8, 0x47#8, 0x47#8, 0x41#8] ++ ascii ",1,4807.0,N,01131.0,E,1,08,0.9,545.4,M*00") := by decide +kernel

theorem witness_PrsAcceptedSentencesWrite_rmc :
    standardConfig.typeRmc.length = 6 ∧ standardConfig.typeRmc ≠ [0x24#8, 0x47#8, 0x50#8, 0x47#8, 0x47#8, 0x41#8]
      ∧ (field (standardConfig.typeRmc ++ ascii ",1,A,4807.0,N,01131.0,E,022.4,084.4,230394,003.1,W*00") 2).head?
          = some standardConfig.validSentinel := by decide +kernel

theorem decimalText_of {sign whole frac rest : List Byte} {point : Bool}
    (hs : sign = [] ∨ sign = [0x2B#8] ∨ sign = [0x2D#8]) (hd : ∀ d ∈ whole ++ frac, 0x30#8 ≤ d ∧ d ≤ 0x39#8)
    (hp : point = false → frac = [] ∧ rest.head? ≠ some 0x2E#8)
    (hr : rest.head?.all (fun d => !decide (0x30#8 ≤ d ∧ d ≤ 0x39#8)) = true)
    (hn : sign = [] → whole = [] → point = false → rest.head? ≠ some 0x2B#8 ∧ rest.head? ≠ some 0x2D#8) :
    decimalText sign whole point frac rest := by
  refine ⟨hs, hd, hp, fun d h => ?_, hn⟩
  rw [h] at hr
  simpa only [decimalDigit, Option.all_some, Bool.not_eq_eq_eq_not, Bool.not_true, decide_eq_false_iff_not] using hr

/-- A signed number with a fraction and a rest, one without a point, a zero with a minus, no digit at all, and an overflow. -/
theorem witness_PrsNumbers :
    decimalText [0x2D#8] (ascii "12") true (ascii "50") (ascii "x") ∧ decimalText [] (ascii "7") false [] (ascii "x")
      ∧ decimalText [0x2D#8] (ascii "0") false [] [] ∧ decimalText [] [] false [] (ascii "abc")
      ∧ decimalText [] (ascii "400000000000000000000000000000000000000") false [] [] := by
  refine ⟨?_, ?_, ?_, ?_, ?_⟩ <;> apply decimalText_of <;> decide +kernel

theorem witness_PrsNumbers_values :
    numberOf (ascii "0") = 0 ∧ numberOf (ascii "1250") = 1250
      ∧ 1250 * 2 ^ 149 < (2 ^ 25 - 1) * 2 ^ 252 * 10 ^ (ascii "50").length
      ∧ (2 ^ 25 - 1) * 2 ^ 252 * 10 ^ ([] : List Byte).length
          ≤ numberOf (ascii "400000000000000000000000000000000000000") * 2 ^ 149
      ∧ (∀ d ∈ ascii "123456789", 0x30#8 ≤ d ∧ d ≤ 0x39#8) ∧ (ascii "123456789").length = 9
      ∧ f32Exp (f32Div 0x45511000#32 0x42C80000#32) ≠ 255 := by decide +kernel

/-- No quality, the no-fix digit, a status that is not valid, a third type. -/
theorem witness_PrsRejectedWritesNothing :
    standardConfig.typeRmc.length = 6 ∧ standardConfig.typeRmc ≠ [0x24#8, 0x47#8, 0x50#8, 0x47#8, 0x47#8, 0x41#8]
      ∧ field ([0x24#8, 0x47#8, 0x50#8, 0x47#8, 0x47#8, 0x41#8] ++ ascii ",1,2,3,4,5,,7") 6 = []
      ∧ (field ([0x24#8, 0x47#8, 0x50#8, 0x47#8, 0x47#8, 0x41#8] ++ ascii ",1,2,3,4,5,0,7") 6).head? = some standardConfig.nofixSentinel
      ∧ (field (standardConfig.typeRmc ++ ascii ",1,V,3") 2).head? ≠ some standardConfig.validSentinel
      ∧ (buf "$GPGSA,A").take 6 ≠ [0x24#8, 0x47#8, 0x50#8, 0x47#8, 0x47#8, 0x41#8]
      ∧ (buf "$GPGSA,A").take 6 ≠ standardConfig.typeRmc := by decide +kernel

theorem witness_HdgBeginContract :
    (hdg' .idle false).blk.hdg.state = .idle ∧ (hdg' .idle false).blk.hdg.busy = false
      ∧ (hdg' .done true).blk.hdg.state ≠ .idle ∧ (hdg' .idle true).blk.hdg.busy = true := by decide +kernel

/-- Each row's state, with the status byte of its class; the low three bits of the last one are masked. -/
theorem witness_HdgEvtFollowsTable :
    ∀ p ∈ [(HState.idle, 0x08#8, TwClass.start), (.addressedForWrite, 0x18#8, .slawAck), (.registerSent, 0x28#8, .txdataAck),
        (.repeatStart, 0x10#8, .repStart), (.addressedForRead, 0x40#8, .slarAck), (.addressedForRead, 0x50#8, .rxdataAck),
        (.highByteReceived, 0x5F#8, .rxdataNack)],
      (hdg' p.1 true).blk.hdg.state = p.1 ∧ (hdg' p.1 true).blk.hdg.busy = true
      ∧ twClass (hdg' p.1 true).blk.cfg.twCodes p.2.1 = p.2.2 := by decide +kernel

theorem witness_HdgEvtFollowsTable_aborts :
    hdgExpects (hdg' .idle false).blk.hdg .start = false ∧ hdgExpects (hdg' .done true).blk.hdg .rxdataNack = false
      ∧ hdgExpects (hdg' .idle true).blk.hdg .other = false ∧ twClass standardConfig.twCodes 0x20#8 = .other := by decide +kernel

theorem witness_HdgPollConsumesReading :
    (hdg' .done true).blk.hdg.state = .done ∧ (hdg' .error true).blk.hdg.state = .error
      ∧ ((hdg' .idle false).blk.hdg.state = .idle ∧ (hdg' .idle false).blk.hdg.busy = false)
      ∧ ∀ p ∈ [(HState.idle, true), (.highByteReceived, true), (.addressedForWrite, false)],
          (hdg' p.1 p.2).blk.hdg.state ≠ .done ∧ (hdg' p.1 p.2).blk.hdg.state ≠ .error
          ∧ ((hdg' p.1 p.2).blk.hdg.state ≠ .idle ∨ (hdg' p.1 p.2).blk.hdg.busy = true) := by decide +kernel

/-- The encoder after moves from reset. -/
def encRun (moves : List (Option (BitVec 2))) : EncoderRun :=
  EncoderRun.run moves { blk := Block.reset standardConfig Environment.reset 0, path := [], drained := 0#16, edges := 0#16 }

/-- Before a drain; three micro-steps into it, with an edge after the index was read; and after the swap, with an edge in the
new cell. -/
theorem witness_EncNoTickLost :
    (encRun [some 0b10#2]).balanced ∧ (encRun [some 0b10#2, none, some 0b11#2, none, none]).balanced
      ∧ (encRun ([some 0b10#2] ++ List.replicate 5 none ++ [some 0b11#2, none, none])).balanced := by
  refine ⟨⟨fun _ => ⟨by decide +kernel, fun a h => ?_, fun h => absurd h (by decide +kernel), fun h => absurd h (by decide +kernel)⟩,
      fun h => absurd h (by decide +kernel)⟩,
    ⟨fun _ => ⟨by decide +kernel, fun a h => ?_, fun _ => by decide +kernel, fun _ => by decide +kernel⟩,
      fun h => absurd h (by decide +kernel)⟩,
    ⟨fun h => absurd h (by decide +kernel), fun _ => ⟨by decide +kernel, fun a h => ?_, fun v h => ?_, fun v h => ?_,
      fun h => absurd h (by decide +kernel), fun h => absurd h (by decide +kernel)⟩⟩⟩
  · have : (encRun [some 0b10#2]).path[0]? = none := by decide +kernel
    exact nomatch this.symm.trans h
  · have : (encRun [some 0b10#2, none, some 0b11#2, none, none]).path[0]? = some 0 := by decide +kernel
    obtain rfl : 0 = a := Option.some.inj (this.symm.trans h)
    decide +kernel
  · have : (encRun ([some 0b10#2] ++ List.replicate 5 none ++ [some 0b11#2, none, none])).path[0]? = some 0 := by decide +kernel
    obtain rfl : 0 = a := Option.some.inj (this.symm.trans h)
    decide +kernel
  · have : (encRun ([some 0b10#2] ++ List.replicate 5 none ++ [some 0b11#2, none, none])).path[5]? = some 1 := by decide +kernel
    obtain rfl : 1 = v := Option.some.inj (this.symm.trans h)
    decide +kernel
  · have : (encRun ([some 0b10#2] ++ List.replicate 5 none ++ [some 0b11#2, none, none])).path[6]? = some 0 := by decide +kernel
    obtain rfl : 0 = v := Option.some.inj (this.symm.trans h)
    decide +kernel

/-- A whole drain with edges in it, and its outcome. -/
theorem witness_EncNoTickLost_whole :
    (fun r : EncoderRun => r.path = [] ∧ r.drained = 1#16 ∧ r.edges = 3#16)
      (encRun ([some 0b10#2] ++ List.replicate 5 none ++ [some 0b11#2] ++ List.replicate 8 none ++ [some 0b01#2])) := by decide +kernel

theorem witness_EstUpdatePose :
    (rec' fun r => { r with status := 0x1#32 }).blk.record.status.getLsbD 0 = true
      ∧ (fun s : State => s.blk.record.status.getLsbD 0 = false ∧ s.blk.record.encValid = 1#8) (rec' fun r => { r with encValid := 1#8 })
      ∧ (fun s : State => s.blk.record.status.getLsbD 0 = false ∧ s.blk.record.encValid ≠ 1#8)
          (rec' fun r => { r with status := 0x1FE#32 }) := by decide +kernel

/-- The first waypoint, the terminal one, and the first operand above the table. -/
theorem witness_GdeWaypointsAndCrossing :
    standardConfig.waypoints[(0#8 : Byte).toNat]? = some standardWaypoint0 ∧ (standardConfig.waypoints[(1#8 : Byte).toNat]?).isSome = true
      ∧ (standardConfig.waypoints.getLast?).isSome = true
      ∧ (2#8 : Byte).toNat = standardConfig.tableLen ∧ standardConfig.tableLen < (3#8 : Byte).toNat := by decide +kernel

/-- The terminal waypoint active, the first one active, and an index above the table. -/
theorem witness_GdeAdvancePassesCrossed_GdeAngleToWaypoint_GdeUpdateAdvancesThenAims :
    goodState.blk.record.wpIndex.toNat ≤ goodState.blk.cfg.tableLen ∧ goodState.blk.cfg.tableLen ≤ 254
      ∧ (waypointAt goodState.blk.cfg goodState.blk.record.wpIndex.toNat).isSome = true
      ∧ waypointAt State.reset.blk.cfg State.reset.blk.record.wpIndex.toNat = some standardWaypoint0
      ∧ (rec' fun r => { r with wpIndex := 3#8 }).blk.cfg.tableLen < (rec' fun r => { r with wpIndex := 3#8 }).blk.record.wpIndex.toNat := by
  decide +kernel

/-- Quotients 0, 1 and -1 over a distance that is not zero, for waypoints ahead and on either side of a heading of 0. -/
theorem witness_GdeAngleToWaypoint_quotient :
    [(0x41A00000#32, 0#32), (0#32, 0x40E00000#32), (0#32, 0xC0E00000#32)].map
      (fun p => (fun len z : F32 => (f32Eq len 0#32, f32Div z len))
        (f32Sqrt (f32Add (f32Mul p.1 p.1) (f32Mul p.2 p.2))) (f32Sub (f32Mul (f32Cos 0#32) p.2) (f32Mul (f32Sin 0#32) p.1)))
      = [(false, 0#32), (false, 0x3F800000#32), (false, 0xBF800000#32)]
    ∧ [0#32, 0x3F800000#32, 0xBF800000#32].all (fun r => !f32IsNan r && !f32Lt 0x3F800000#32 r && !f32Lt r 0xBF800000#32) = true
    ∧ f32Eq (f32Sub 0x41A00000#32 0x41A00000#32) 0#32 = true := by decide +kernel

theorem witness_ActFwdSetsWidth_ActRevApproachesReverse :
    (1#8 : Byte).toNat < standardConfig.nClasses ∧ standardConfig.fwdUs[(1#8 : Byte).toNat]? = some 1700#16
      ∧ standardConfig.revUs[(1#8 : Byte).toNat]? = some 1300#16 ∧ standardConfig.nClasses ≤ (2#8 : Byte).toNat
      ∧ (act' .reverse 1340#16 0#8).blk.record.throttleUs.toNat ≤ (1300#16 : U16).toNat + standardConfig.revRampStep
      ∧ (1300#16 : U16).toNat + standardConfig.revRampStep < (act' .reverse 1341#16 0#8).blk.record.throttleUs.toNat
      ∧ ∀ d ∈ [DriveState.forward, .neutral, .reverse, .preReverse], (act' d 1500#16 1#8).blk.act.drive = d := by decide +kernel

/-- The four drive states; the last width the snap reaches and the first it does not, from either side. -/
theorem witness_ActStopRampsToNeutral :
    (∀ d ∈ [DriveState.forward, .neutral, .reverse, .preReverse], (act' d 1500#16 0#8).blk.act.drive = d)
      ∧ (1600 ≤ 1500 + standardConfig.stepFromFwd ∧ 1500 ≤ 1600 + standardConfig.stepFromFwd)
      ∧ 1500 + standardConfig.stepFromFwd < 1601 ∧ 1449 + standardConfig.stepFromRev < 1500
      ∧ ((act' .forward 1601#16 0#8).blk.record.throttleUs.toNat = 1601 ∧ (act' .reverse 1449#16 0#8).blk.record.throttleUs.toNat = 1449) := by
  decide +kernel

/-- A distance that the steps divide, and one more than that. -/
theorem witness_ActStopRampsToNeutral_length :
    ∀ p ∈ [(act' .forward 1700#16 0#8, 200, 1), (act' .forward 1701#16 0#8, 201, 2)],
      p.1.blk.act.drive = .forward ∧ 0 < p.2.1 ∧ p.1.blk.record.throttleUs.toNat = p.1.blk.cfg.neutralUs.toNat + p.2.1
      ∧ p.2.2 * p.1.blk.cfg.stepFromFwd < p.2.1 ∧ p.2.1 ≤ (p.2.2 + 1) * p.1.blk.cfg.stepFromFwd := by decide +kernel

/-- A NaN, the two ends of the travel, and an angle beyond each. -/
theorem witness_ActSteerClamps :
    standardConfig.ok = true ∧ f32IsNan 0x7FC00000#32 = true
      ∧ standardConfig.steerMin = 0xBF000000#32 ∧ standardConfig.steerMax = 0x3F000000#32
      ∧ (f32IsNan 0xBF000000#32 = false ∧ f32Lt 0xBF000000#32 0xBF000000#32 = false ∧ f32Lt 0x3F000000#32 0xBF000000#32 = false)
      ∧ (f32IsNan 0x3F000000#32 = false ∧ f32Lt 0x3F000000#32 0xBF000000#32 = false ∧ f32Lt 0x3F000000#32 0x3F000000#32 = false)
      ∧ f32Lt 0xFF800000#32 standardConfig.steerMin = true ∧ f32Lt standardConfig.steerMax 0x3F000001#32 = true := by
  decide +kernel

theorem witness_ActUpdateIsItsParts :
    waypointAt State.reset.blk.cfg State.reset.blk.record.wpIndex.toNat = some standardWaypoint0
      ∧ standardConfig.nClasses ≤ 256 ∧ standardConfig.fwdUs.length = standardConfig.nClasses
      ∧ standardConfig.revUs.length = standardConfig.nClasses ∧ standardConfig.okDrive standardWaypoint0.throttle = true := by decide +kernel

/-- `ACT.STARTUP` in its wait, with pulses left and the timer as given. -/
def waiting' (left count : Nat) (overrun : Bool) : State :=
  { (at' fun b => { b with sch := ⟨count, overrun⟩ }) with task := some (.startup left) }

/-- No pulse, three pulses; the wait one tick short, over, and over by a wrap. -/
theorem witness_ActStartupEmitsPulses :
    (fun s : State => s.blk.cfg.ok = true ∧ s.blk.cfg.startupPulses = 0) (cfg' { standardConfig with startupPulses := 0 })
      ∧ State.reset.blk.cfg.ok = true ∧ State.reset.blk.cfg.startupPulses = 2 + 1
      ∧ (fun s : State => s.task = some (.startup 0) ∧ s.blk.sch.count < s.blk.cfg.cycleTicks ∧ s.blk.sch.overrun = false)
          (waiting' 0 19999 false)
      ∧ (fun s : State => s.task = some (.startup 0) ∧ s.blk.cfg.cycleTicks ≤ s.blk.sch.count) (waiting' 0 20000 false)
      ∧ (fun s : State => s.task = some (.startup (1 + 1)) ∧ s.blk.sch.overrun = true) (waiting' 2 0 true) := by decide +kernel

theorem witness_PulseGeneratorSteps :
    (getPulse .steering State.reset.blk).run = false
      ∧ (getPulse .throttle (at' fun b => { b with throttle := ⟨true, 3000#16, 2999#16, true⟩ }).blk).run = true := by decide +kernel

theorem witness_PulseGeneratorSteps_lasts :
    (fun s : State => 3000 = s.blk.record.steerUs.toNat * s.blk.cfg.ticksPerUs ∧ 1 ≤ 3000 ∧ 3000 ≤ 65535 ∧ s.blk.irq.enabled = true)
      (at' fun b => { b with irq := ⟨true, []⟩ }) := by decide +kernel

/-- The greatest width: 65535 ticks of one tick a microsecond. -/
theorem witness_PulseGeneratorSteps_longest :
    (fun s : State => 65535 = s.blk.record.throttleUs.toNat * s.blk.cfg.ticksPerUs ∧ s.blk.irq.enabled = true)
      (at' fun b => { b with cfg := { b.cfg with ticksPerUs := 1 }, record := { b.record with throttleUs := 65535#16 }, irq := ⟨true, []⟩ }) := by
  decide +kernel

theorem witness_StoCmdSendsFrameAndPolls_StorageContained :
    1 ≤ State.reset.blk.cfg.respRetryMax ∧ State.reset.blk.sto.enabled = false := by decide +kernel

/-- The most polls the ceiling admits before an answer, and a poll that answers too late. -/
theorem witness_StoCmdSendsFrameAndPolls_scripted :
    (List.replicate 6 0xFF#8).length = 6 ∧ (∀ q ∈ List.replicate 7 0xFF#8, (q : Byte).msb = true) ∧ (0x7F#8 : Byte).msb = false
      ∧ (List.replicate 7 0xFF#8).length < State.reset.blk.cfg.respRetryMax
      ∧ (∀ q ∈ List.replicate 8 0x80#8, (q : Byte).msb = true) ∧ (List.replicate 8 0x80#8).length = State.reset.blk.cfg.respRetryMax := by
  decide +kernel

/-- No polls and the most polls the ceiling admits; each answer a clause speaks of. -/
theorem witness_StorageReadsKeepAnswers :
    ∀ p ∈ [(([] : List Byte), 0x01#8), (List.replicate 7 0xFF#8, 0x01#8), ([], 0x00#8), (List.replicate 7 0xFF#8, 0x00#8)],
      List.length (List.replicate 6 0xFF#8) = 6 ∧ (∀ v ∈ p.1, v.msb = true) ∧ p.1.length < standardConfig.respRetryMax
      ∧ (p.2 : Byte).msb = false
      ∧ (p.2 = standardConfig.answers.idle ∨ p.2 = standardConfig.answers.ready)
      ∧ (∀ g ∈ List.replicate 7 0xFF#8, g = standardConfig.answers.filler) ∧ (List.replicate 7 0xFF#8).length < standardConfig.tokenRetryMax
      ∧ standardConfig.answers.dataToken ≠ standardConfig.answers.filler
      ∧ (List.replicate 16 0x11#8).length = 16 ∧ (List.replicate 512 0x11#8).length = standardConfig.blockSize
      ∧ (List.replicate 2 0x11#8).length = 2 := by decide +kernel

/-- The failures: another answer, no answer in time, another token as the last byte the ceiling admits, and no token in time. -/
theorem witness_StorageReadsKeepAnswers_fails :
    (0x05#8 : Byte).msb = false ∧ (0x05#8 : Byte) ≠ standardConfig.answers.idle ∧ (0x05#8 : Byte) ≠ standardConfig.answers.ready
      ∧ (List.replicate 8 0xFF#8).length = standardConfig.respRetryMax ∧ (∀ q ∈ List.replicate 8 0xFF#8, (q : Byte).msb = true)
      ∧ standardConfig.answers.ready.msb = false
      ∧ (∀ g ∈ List.replicate (standardConfig.tokenRetryMax - 1) 0xFF#8, g = standardConfig.answers.filler)
      ∧ (List.replicate (standardConfig.tokenRetryMax - 1) 0xFF#8).length < standardConfig.tokenRetryMax
      ∧ (0x05#8 : Byte) ≠ standardConfig.answers.filler ∧ (0x05#8 : Byte) ≠ standardConfig.answers.dataToken
      ∧ (∀ g ∈ List.replicate standardConfig.tokenRetryMax 0xFF#8, g = standardConfig.answers.filler)
      ∧ (List.replicate standardConfig.tokenRetryMax 0xFF#8).length = standardConfig.tokenRetryMax := by decide +kernel

/-- The devices of the previous witnesses in a state, whose buffers have their lengths. -/
theorem witness_StorageReadsKeepAnswers_device (script : List Byte) :
    (with' standardConfig (.script script)).blk.env.device = .script script
      ∧ (with' standardConfig (.script script)).blk.cfg = standardConfig ∧ standardConfig.ok = true
      ∧ (with' standardConfig (.script script)).blk.sto.csd.length = 16
      ∧ (with' standardConfig (.script script)).blk.sto.lead.length = 4 := ⟨rfl, rfl, test_standardConfig_ok, rfl, rfl⟩

/-- A device of two blocks, with none, one and all of them used. -/
theorem witness_StoFindReturnsFirstFreeBlock :
    ∀ p ∈ [(0, ([] : Memory)), (1, memWriteList 0 (guardImage standardConfig) []),
        (2, memWriteList 0 (guardImage standardConfig) (memWriteList 128 (guardImage standardConfig) []))],
      (fun s : State => s.blk.cfg.ok = true ∧ s.blk.cfg.answers = standardAnswers ∧ s.blk.cfg.cmdHeader = 0x40#8
          ∧ 2 ≤ s.blk.cfg.tokenRetryMax ∧ s.blk.sto.lead.length = 4 ∧ s.blk.env.device = .reference { emptyDevice with nb := 2, blk := p.2 }
          ∧ 0 < s.blk.sto.capacityBlocks.toNat ∧ s.blk.sto.capacityBlocks.toNat ≤ 2 ∧ p.1 ≤ s.blk.sto.capacityBlocks.toNat
          ∧ ∀ a, a < s.blk.sto.capacityBlocks.toNat →
              ((refBlock s.blk.cfg { emptyDevice with nb := 2, blk := p.2 } a).take 4 = guardImage s.blk.cfg ↔ a < p.1))
        ((with' smallConfig (.reference { emptyDevice with nb := 2, blk := p.2 })).mapBlk fun b =>
          { b with sto := { b.sto with capacityBlocks := 2#32 } }) := by decide +kernel

theorem witness_StoFindReturnsFirstFreeBlock_quiet (m : Memory) : quiet { emptyDevice with nb := 2, blk := m } := ⟨rfl, rfl, rfl⟩

/-! The answers of the scripted devices: six bytes during a frame, an answer at the first poll, a block without gaps. -/

def answered (v : Byte) : List Byte := List.replicate 6 0xFF#8 ++ [v]

def delivered (data : List Byte) : List Byte := answered 0x00#8 ++ [0xFE#8] ++ data ++ [0#8, 0#8]

theorem reply_answered {v : Byte} (h : v.msb = false) : reply smallConfig (some v) (answered v) :=
  ⟨List.replicate 6 0xFF#8, [], ⟨rfl, by simp, by decide, h⟩, rfl⟩

theorem blockReply_delivered (data : List Byte) : blockReply smallConfig data (delivered data) :=
  ⟨answered 0x00#8, [], [0#8, 0#8], reply_answered rfl, ⟨by simp, by decide, by decide⟩, rfl, rfl⟩

/-- A block read fails on another answer, on no answer in time, on another token, and on no token in time. -/
theorem blockRefusal_each :
    blockRefusal smallConfig (answered 0x05#8) ∧ blockRefusal smallConfig (List.replicate 6 0xFF#8 ++ List.replicate 8 0xFF#8)
      ∧ blockRefusal smallConfig (answered 0x00#8 ++ [] ++ [0x05#8])
      ∧ blockRefusal smallConfig (answered 0x00#8 ++ List.replicate smallConfig.tokenRetryMax 0xFF#8) :=
  ⟨.inl ⟨_, by decide, reply_answered rfl⟩, .inl ⟨none, by decide, List.replicate 6 0xFF#8, _, rfl, rfl, by decide, rfl⟩,
    .inr ⟨_, _, reply_answered rfl, by simp, .inl ⟨0x05#8, by decide, by decide, by decide, rfl⟩⟩,
    .inr ⟨_, _, reply_answered rfl, fun _ h => List.eq_of_mem_replicate h, .inr ⟨List.length_replicate, by decide, rfl⟩⟩⟩

/-- A used block of 128 bytes. -/
def usedBlock : List Byte := guardImage smallConfig ++ List.replicate 124 0#8

/-- The first read fails; and the one after block 0 was found used, with two blocks. -/
theorem witness_StoFindReturnsFirstFreeBlock_refused :
    searchRefusal smallConfig 2 (answered 0x05#8) ∧ searchRefusal smallConfig 2 (delivered usedBlock ++ answered 0x05#8) :=
  ⟨⟨[], [], _, .nil, by simp, blockRefusal_each.1, rfl, by simp⟩,
    ⟨[usedBlock], [delivered usedBlock], answered 0x05#8, .cons (blockReply_delivered _) .nil, by decide +kernel, blockRefusal_each.1,
      by simp, fun d ds h => by
        obtain ⟨rfl, rfl⟩ := List.cons.inj h
        exact ⟨by decide +kernel, by decide +kernel⟩⟩⟩

theorem witness_StoFindReturnsFirstFreeBlock_script (script : List Byte) :
    (fun s : State => s.blk.cfg.ok = true ∧ s.blk.sto.lead.length = 4 ∧ s.blk.sto.capacityBlocks.toNat = 2
        ∧ s.blk.env.device = .script script)
      ((with' smallConfig (.script script)).mapBlk fun b => { b with sto := { b.sto with capacityBlocks := 2#32 } }) :=
  ⟨test_smallConfig_ok, rfl, rfl, rfl⟩

/-- The register of 512 blocks, and answers with which each step passes and fails. -/
def csd0 : List Byte := List.replicate 16 0#8

def passing : InitStep → List Byte
  | .reset => answered 0x01#8
  | .ifcond => answered 0x01#8 ++ [0#8, 0#8, 0x01#8, 0xAA#8]
  | .opcond => answered 0x01#8 ++ answered 0x01#8 ++ (answered 0x01#8 ++ answered 0x00#8)
  | .readocr => answered 0x00#8 ++ [0xC0#8, 0xFF#8, 0x80#8, 0x00#8]
  | .readcsd => delivered csd0
  | .find => []

def failing : InitStep → List Byte
  | .reset => answered 0x00#8
  | .ifcond => answered 0x01#8 ++ [0#8, 0#8, 0x01#8, 0xAB#8]
  | .opcond => answered 0x01#8 ++ answered 0x05#8
  | .readocr => answered 0x00#8 ++ [0x80#8, 0xFF#8, 0x80#8, 0x00#8]
  | .readcsd => answered 0x00#8 ++ [] ++ [0x05#8]
  | .find => answered 0x05#8

/-- A first round answered "idle", and a last one "ready". -/
theorem passing_passes : List.Forall₂ (stepPasses smallConfig csd0) [.reset, .ifcond, .opcond, .readocr, .readcsd]
    ([.reset, .ifcond, .opcond, .readocr, .readcsd].map passing) := by
  refine .cons (reply_answered rfl) (.cons ?_ (.cons ?_ (.cons ?_ (.cons ⟨rfl, blockReply_delivered _⟩ .nil))))
  · exact ⟨_, [0#8, 0#8, 0x01#8, 0xAA#8], reply_answered rfl, rfl, rfl, rfl, rfl⟩
  · refine ⟨[answered 0x01#8 ++ answered 0x01#8], answered 0x01#8 ++ answered 0x00#8, by decide, ?_, ?_, by rw [List.flatten_singleton]; rfl⟩
    · intro r hr
      obtain rfl := List.mem_singleton.mp hr
      exact ⟨0x01#8, _, _, .inl rfl, reply_answered rfl, reply_answered rfl, rfl⟩
    · exact ⟨0x01#8, _, _, .inl rfl, reply_answered rfl, reply_answered rfl, rfl⟩
  · exact ⟨_, [0xC0#8, 0xFF#8, 0x80#8, 0x00#8], reply_answered rfl, rfl, rfl, rfl⟩

theorem failing_fails (step : InitStep) : stepFails smallConfig csd0 step (failing step) := by
  cases step
  · exact ⟨some 0x00#8, by decide, reply_answered rfl⟩
  · exact .inr ⟨_, [0#8, 0#8, 0x01#8, 0xAB#8], reply_answered rfl, rfl, by decide, rfl⟩
  · exact ⟨[], _, by simp, rfl, .inr ⟨by decide, some 0x05#8, by decide, by decide,
      .inr ⟨0x01#8, _, _, .inl rfl, reply_answered rfl, reply_answered rfl, rfl⟩⟩⟩
  · exact .inr ⟨_, [0x80#8, 0xFF#8, 0x80#8, 0x00#8], reply_answered rfl, rfl, rfl, rfl⟩
  · exact blockRefusal_each.2.2.1
  · exact ⟨[], [], _, .nil, by simp, blockRefusal_each.1, rfl, by simp⟩

/-- Every step fails after those before it have passed, on one device. -/
theorem witness_StoInitOutcome_refused (k : Nat) (step : InitStep) (h : initSteps[k]? = some step) :
    ∃ passed failed, initSteps = initSteps.take k ++ step :: initSteps.drop (k + 1)
      ∧ List.Forall₂ (stepPasses smallConfig csd0) (initSteps.take k) passed ∧ stepFails smallConfig csd0 step failed
      ∧ (fun s : State => s.blk.cfg = smallConfig ∧ s.blk.cfg.ok = true ∧ s.blk.cfg.answers.idle ≠ s.blk.cfg.answers.ready
          ∧ s.blk.sto.csd.length = 16 ∧ s.blk.sto.lead.length = 4 ∧ s.blk.env.device = .script (passed.flatten ++ failed ++ []))
        (with' smallConfig (.script (passed.flatten ++ failed ++ []))) := by
  have passed : List.Forall₂ (stepPasses smallConfig csd0) (initSteps.take k)
      (([InitStep.reset, .ifcond, .opcond, .readocr, .readcsd].map passing).take k) := by
    obtain ⟨hk, -⟩ := List.getElem?_eq_some_iff.mp h
    have h5 : initSteps.take k = [InitStep.reset, .ifcond, .opcond, .readocr, .readcsd].take k := by
      have : k < 6 := hk
      interval_cases k <;> rfl
    exact h5 ▸ List.forall₂_take k passing_passes
  refine ⟨_, _, ?_, passed, failing_fails step, rfl, test_smallConfig_ok,
    (by decide : (0x01#8 : Byte) ≠ 0x00#8), rfl, rfl, rfl⟩
  obtain ⟨hk, rfl⟩ := List.getElem?_eq_some_iff.mp h
  rw [← List.drop_eq_getElem_cons hk, List.take_append_drop]

/-- The three refusals of a write. -/
theorem witness_StoWriteOutcome_refused :
    writeRefusal smallConfig (answered 0x05#8)
      ∧ writeRefusal smallConfig (answered 0x00#8 ++ List.replicate 131 0xFF#8 ++ [0x0B#8])
      ∧ writeRefusal smallConfig (answered 0x00#8 ++ List.replicate 131 0xFF#8 ++ [0xE5#8]
          ++ List.replicate smallConfig.busyRetryMax 0x00#8) :=
  ⟨.inl ⟨_, by decide, reply_answered rfl⟩,
    .inr ⟨_, _, 0x0B#8, reply_answered rfl, List.length_replicate, .inl ⟨by decide, rfl⟩⟩,
    .inr ⟨_, _, 0xE5#8, reply_answered rfl, List.length_replicate, .inr ⟨by decide, rfl, rfl⟩⟩⟩

theorem witness_StoWriteOutcome_script (script : List Byte) :
    (fun s : State => s.blk.cfg = smallConfig ∧ s.blk.sto.enabled = true ∧ s.blk.sto.nextBlock.toNat < s.blk.sto.capacityBlocks.toNat
        ∧ s.blk.env.device = .script script)
      ((with' smallConfig (.script script)).mapBlk fun b =>
        { b with sto := { b.sto with enabled := true, nextBlock := 3#32, capacityBlocks := 512#32 } }) :=
  ⟨rfl, rfl, (by decide : 3 < 512), rfl⟩

/-- A failed read in `STO.FIND` disables the storage. -/
theorem test_find_failure_disables :
    nextIs (exec .stoFind ((with' smallConfig (.script (answered 0x05#8))).mapBlk fun b =>
        { b with sto := { b.sto with enabled := true, capacityBlocks := 2#32 } }))
      (fun t => !t.blk.sto.enabled && !t.blk.sto.cs && t.blk.ret == .word none) = true := by decide +kernel

/-- A device ready in the last round, one a round too late, and one that is not block-addressed. -/
theorem witness_StoInitOutcome :
    (∀ d ∈ [{ emptyDevice with warm := 9 }, { emptyDevice with warm := 10 }, { emptyDevice with ocr := [0x80#8, 0xFF#8, 0x80#8, 0x00#8] }],
      (fun s : State => s.blk.cfg.ok = true ∧ s.blk.cfg.answers = standardAnswers ∧ s.blk.cfg.cmdHeader = 0x40#8
          ∧ 2 ≤ s.blk.cfg.tokenRetryMax ∧ s.blk.sto.csd.length = 16 ∧ s.blk.sto.lead.length = 4 ∧ s.blk.env.device = .reference d ∧ d.ocr.length = 4 ∧ d.csd.length = 16)
        (with' smallConfig (.reference d)))
    ∧ (emptyDevice.ocr.getD 0 0#8).getLsbD 6 = true ∧ 9 < smallConfig.opcondRetryMax ∧ smallConfig.opcondRetryMax ≤ 10
    ∧ ((0x80#8 : Byte).getLsbD 6 = false)
    ∧ ((emptyDevice.csd.getD 7 0#8).toNat % 64 * 65536 + (emptyDevice.csd.getD 8 0#8).toNat * 256
        + (emptyDevice.csd.getD 9 0#8).toNat + 1) * 512 = 512
    ∧ 512 ≤ emptyDevice.nb ∧ (∀ a, a < 512 → ((refBlock smallConfig emptyDevice a).take 4 = guardImage smallConfig ↔ a < 0)) := by
  decide +kernel

theorem witness_StoInitOutcome_quiet (n : Nat) (o : List Byte) : quiet { emptyDevice with warm := n, ocr := o } := ⟨rfl, rfl, rfl⟩

/-- Disabled, full, and with the last block free. -/
theorem witness_StoWriteOutcome :
    State.reset.blk.sto.enabled = false
      ∧ (fun s : State => s.blk.sto.enabled = true ∧ s.blk.sto.capacityBlocks.toNat ≤ s.blk.sto.nextBlock.toNat)
          (at' fun b => { b with sto := { b.sto with enabled := true, nextBlock := 512#32, capacityBlocks := 512#32 } })
      ∧ (fun s : State => s.blk.sto.enabled = true ∧ s.blk.sto.nextBlock.toNat < s.blk.sto.capacityBlocks.toNat)
          (at' fun b => { b with sto := { b.sto with enabled := true, nextBlock := 511#32, capacityBlocks := 512#32 } }) := by decide +kernel

/-- As many busy polls as the ceiling admits. -/
theorem witness_StoWriteStreamsRecord :
    (fun s : State => s.blk.cfg.ok = true ∧ s.blk.cfg.busyIgnored = false ∧ s.blk.sto.enabled = true
        ∧ s.blk.sto.nextBlock.toNat < s.blk.sto.capacityBlocks.toNat
        ∧ (List.replicate 6 0xFF#8).length = 6 ∧ (∀ v ∈ [0xFF#8], (v : Byte).msb = true) ∧ [0xFF#8].length < s.blk.cfg.respRetryMax
        ∧ s.blk.cfg.answers.ready.msb = false ∧ (List.replicate 515 0xFF#8).length = s.blk.cfg.blockSize + 3
        ∧ 0xE5#8 &&& s.blk.cfg.answers.respMask = s.blk.cfg.answers.respAccepted
        ∧ (∀ v ∈ List.replicate 7 0x00#8, v = s.blk.cfg.answers.busy) ∧ (List.replicate 7 0x00#8).length < s.blk.cfg.busyRetryMax
        ∧ 0xFF#8 ≠ s.blk.cfg.answers.busy)
      (at' fun b => { b with sto := { b.sto with enabled := true, nextBlock := 511#32, capacityBlocks := 512#32 } }) := by decide +kernel

/-- The first and last byte of the first and last raw field, and the ends of the padding. -/
theorem witness_RecordImageLayout :
    standardConfig.ok = true ∧ 3 < standardConfig.nRaw ∧ 83 < standardConfig.sentenceCap
      ∧ 12 + standardConfig.nRaw * standardConfig.sentenceCap + 74 ≤ 422 ∧ 507 < standardConfig.blockSize - 4 := by decide +kernel

end Sys2Proof.Tests
end

section
/-!
SUPPORT. Rounding to nearest, ties to even (`00_scope.md` rule R12): what `roundDiv`, `roundMag` and the four operations of the
floating type give.
-/

namespace Sys2Proof.Machine

/-! ## Distances -/

/-- The value `r` is at least as near to `num / den` as `y`, and `even` holds where another value `y` is equally near. -/
def AsNear (num : Int) (den : Nat) (r y : Int) (even : Prop) : Prop :=
  (num - r * den).natAbs ≤ (num - y * den).natAbs
    ∧ ((num - r * den).natAbs = (num - y * den).natAbs → y ≠ r → even)

/-- Changing the sign of all three values changes no distance. -/
theorem AsNear.neg {num r y : Int} {den : Nat} {even : Prop} (h : AsNear num den r y even) : AsNear (-num) den (-r) (-y) even := by
  have dist : ∀ v : Int, (-num - -v * den).natAbs = (num - v * den).natAbs := fun v => by
    rw [show -num - -v * den = -(num - v * den) by ring, Int.natAbs_neg]
  rw [AsNear, dist, dist]
  exact ⟨h.1, fun he hne => h.2 he fun hy => hne (by rw [hy])⟩

theorem AsNear.imp {num r y : Int} {den : Nat} {even even' : Prop} (h : AsNear num den r y even) (he : even → even') :
    AsNear num den r y even' := ⟨h.1, fun hd hne => he (h.2 hd hne)⟩

/-- Values in a unit `u` times as large. -/
theorem AsNear.scale {num r y : Int} {den u : Nat} {even : Prop} (h : AsNear num (den * u : Nat) r y even) :
    AsNear num den (r * u) (y * u) even := by
  have dist : ∀ v : Int, num - v * u * den = num - v * (den * u : Nat) := fun v => by push_cast; ring
  rw [AsNear, dist, dist]
  exact ⟨h.1, fun he hne => h.2 he fun hy => hne (by rw [hy])⟩

/-! ## Quotients -/

/-- A quotient is rounded down or up, to the even side where both are equally near. -/
theorem roundDiv_cases (num : Nat) {den : Nat} (hd : 0 < den) :
    ∃ q r, num = q * den + r ∧ r < den
      ∧ ((roundDiv num den = q ∧ 2 * r ≤ den ∧ (2 * r = den → q % 2 = 0))
        ∨ (roundDiv num den = q + 1 ∧ den ≤ 2 * r ∧ (2 * r = den → q % 2 = 1))) := by
  refine ⟨num / den, num % den, by rw [Nat.mul_comm, Nat.div_add_mod], Nat.mod_lt _ hd, ?_⟩
  by_cases h : den < 2 * (num % den) ∨ (2 * (num % den) = den ∧ num / den % 2 = 1)
  · exact .inr ⟨if_pos h, by omega, by omega⟩
  · exact .inl ⟨if_neg h, by omega, by omega⟩

/-- No integer is nearer to the quotient, and the result is even where another one is equally near. -/
theorem roundDiv_asNear (num : Nat) {den : Nat} (hd : 0 < den) (j : Int) :
    AsNear num den (roundDiv num den) j (roundDiv num den % 2 = 0) := by
  obtain ⟨q, r, hnum, hr, h⟩ := roundDiv_cases num hd
  have scale : ∀ a b : Int, a ≤ b → a * den ≤ b * den := fun a b hab => mul_le_mul_of_nonneg_right hab (Int.natCast_nonneg den)
  have succ : ((q : Int) + 1) * den = q * den + den := by ring
  have hj : (j = q ∧ j * den = q * den) ∨ (j = q + 1 ∧ j * den = q * den + den)
      ∨ j * den ≤ q * den - den ∨ (q : Int) * den + 2 * den ≤ j * den := by
    rcases (by omega : j = q ∨ j = q + 1 ∨ j ≤ q - 1 ∨ (q : Int) + 2 ≤ j) with rfl | rfl | hlo | hhi
    · exact .inl ⟨rfl, rfl⟩
    · exact .inr (.inl ⟨rfl, succ⟩)
    · exact .inr (.inr (.inl (by linarith [scale _ _ hlo])))
    · exact .inr (.inr (.inr (by linarith [scale _ _ hhi])))
  have hlow : (num : Int) = q * den + r := by exact_mod_cast hnum
  unfold AsNear
  generalize j * (den : Int) = y at *
  obtain ⟨he, hle, htie⟩ | ⟨he, hle, htie⟩ := h
  · rw [he]
    omega
  · rw [he, Nat.cast_succ, succ]
    omega

/-- A multiple of the divisor bounds the rounded quotient from below. -/
theorem le_roundDiv {num den a : Nat} (hd : 0 < den) (h : a * den ≤ num) : a ≤ roundDiv num den := by
  obtain ⟨q, r, hnum, hr, hq⟩ := roundDiv_cases num hd
  have : a < q + 1 := Nat.lt_of_mul_lt_mul_right (a := den) (by rw [Nat.add_mul]; omega)
  omega

/-- A multiple of the divisor bounds the rounded quotient from above. -/
theorem roundDiv_le {num den a : Nat} (h : num < a * den) : roundDiv num den ≤ a := by
  have hd : 0 < den := Nat.pos_of_ne_zero fun h0 => by simp [h0] at h
  obtain ⟨q, r, hnum, hr, hq⟩ := roundDiv_cases num hd
  have : q < a := Nat.lt_of_mul_lt_mul_right (a := den) (by omega)
  omega

/-- The quotient is rounded to at most an odd `a` exactly when it lies below the middle between `a` and `a + 1`. -/
theorem roundDiv_le_iff_of_odd {num den a : Nat} (hd : 0 < den) (ha : a % 2 = 1) :
    roundDiv num den ≤ a ↔ 2 * num < (2 * a + 1) * den := by
  obtain ⟨q, r, rfl, hr, hq⟩ := roundDiv_cases num hd
  have hmid : (2 * a + 1) * den = 2 * (a * den) + den := by ring
  rw [hmid]
  rcases lt_trichotomy q a with hlt | rfl | hgt
  · have := Nat.mul_le_mul_right den hlt
    rw [Nat.succ_mul] at this
    omega
  · omega
  · have := Nat.mul_le_mul_right den hgt
    rw [Nat.succ_mul] at this
    omega

/-! ## Magnitudes -/

/-- The exponent `roundMag` takes: the number of bits that do not fit in the fraction. -/
def magShift (num den : Nat) : Nat := Nat.log2 (num / den) - 23

/-- The significand `roundMag` takes, in units of `2 ^ magShift`. -/
def magDigits (num den : Nat) : Nat := roundDiv num (den * 2 ^ magShift num den)

theorem roundMag_eq (num den : Nat) :
    roundMag num den = min (magShift num den * 2 ^ 23 + magDigits num den) 0x7F800000 := rfl

theorem roundMag_zero : roundMag 0 1 = 0 := by decide

/-- The value is below `2 ^ 24` units of its significand. -/
theorem lt_magShift (num : Nat) {den : Nat} (hd : 0 < den) : num < 2 ^ 24 * (den * 2 ^ magShift num den) := by
  have hlog : num / den < 2 ^ (Nat.log2 (num / den) + 1) := Nat.lt_log2_self
  have hpow : 2 ^ (Nat.log2 (num / den) + 1) ≤ 2 ^ (24 + magShift num den) :=
    Nat.pow_le_pow_right (by decide) (by unfold magShift; omega)
  rw [pow_add 2 24] at hpow
  calc num < 2 ^ 24 * 2 ^ magShift num den * den := (Nat.div_lt_iff_lt_mul hd).mp (lt_of_lt_of_le hlog hpow)
    _ = 2 ^ 24 * (den * 2 ^ magShift num den) := by ring

/-- A value that does not fit in the fraction is at least `2 ^ 23` units of its significand. -/
theorem magShift_le {num den : Nat} (h : magShift num den ≠ 0) : 2 ^ 23 * (den * 2 ^ magShift num den) ≤ num := by
  have hne : num / den ≠ 0 := fun h0 => h (by rw [magShift, h0]; rfl)
  have hlog : 2 ^ Nat.log2 (num / den) ≤ num / den := Nat.log2_self_le hne
  rw [show Nat.log2 (num / den) = 23 + magShift num den by unfold magShift at *; omega, pow_add] at hlog
  calc 2 ^ 23 * (den * 2 ^ magShift num den) = 2 ^ 23 * 2 ^ magShift num den * den := by ring
    _ ≤ num / den * den := Nat.mul_le_mul_right _ hlog
    _ ≤ num := Nat.div_mul_le_self _ _

theorem magDigits_le (num : Nat) {den : Nat} (hd : 0 < den) : magDigits num den ≤ 2 ^ 24 :=
  roundDiv_le (lt_magShift num hd)

theorem le_magDigits {num den : Nat} (hd : 0 < den) (h : magShift num den ≠ 0) : 2 ^ 23 ≤ magDigits num den :=
  le_roundDiv (Nat.mul_pos hd (Nat.two_pow_pos _)) (magShift_le h)

/-- The result is finite exactly when the value is below the middle between the greatest magnitude and the next one that an
unbounded exponent would give, 2^128 - 2^103. -/
theorem roundMag_lt_inf_iff (num : Nat) {den : Nat} (hd : 0 < den) :
    magShift num den * 2 ^ 23 + magDigits num den < 0x7F800000 ↔ num < (2 ^ 25 - 1) * 2 ^ 252 * den := by
  have hlt := lt_magShift num hd
  have hq := magDigits_le num hd
  rcases lt_trichotomy (magShift num den) 253 with hk | hk | hk
  · have hpow : den * 2 ^ magShift num den ≤ den * 2 ^ 252 :=
      Nat.mul_le_mul_left _ (Nat.pow_le_pow_right (by decide) (by omega))
    omega
  · have hD : 0 < den * 2 ^ 253 := Nat.mul_pos hd (Nat.two_pow_pos _)
    have hmid := roundDiv_le_iff_of_odd (num := num) (a := 2 ^ 24 - 1) hD (by decide)
    rw [← hk, ← magDigits, hk] at hmid
    omega
  · have hlo := magShift_le (num := num) (den := den) (by omega)
    have hq' := le_magDigits (num := num) hd (by omega)
    have hpow : den * 2 ^ 254 ≤ den * 2 ^ magShift num den :=
      Nat.mul_le_mul_left _ (Nat.pow_le_pow_right (by decide) (by omega))
    omega

/-- The magnitude of a pattern with the shift `k` and the significand `q`. -/
theorem f32Mag_pack_scaled (s : Bool) {k q : Nat} (hq : q ≤ 2 ^ 24) (hk : k ≠ 0 → 2 ^ 23 ≤ q) (hp : k * 2 ^ 23 + q < 2 ^ 31) :
    f32Mag (f32Pack s (k * 2 ^ 23 + q)) = q * 2 ^ k := by
  simp only [f32Mag, f32Exp_pack s hp, f32Frac_pack s hp]
  rcases Nat.lt_or_ge q (2 ^ 23) with h | h
  · have hk0 : k = 0 := by by_contra h0; exact absurd (hk h0) (by omega)
    subst hk0
    rw [if_pos (by omega)]
    omega
  · rcases Nat.lt_or_ge q (2 ^ 24) with h' | h'
    · rw [show (k * 2 ^ 23 + q) / 2 ^ 23 = k + 1 by omega, if_neg (by omega), Nat.add_sub_cancel,
        show 2 ^ 23 + (k * 2 ^ 23 + q) % 2 ^ 23 = q by omega]
    · have hq24 : q = 2 ^ 24 := le_antisymm hq h'
      subst hq24
      rw [show (k * 2 ^ 23 + 2 ^ 24) / 2 ^ 23 = k + 2 by omega, if_neg (by omega),
        show (k * 2 ^ 23 + 2 ^ 24) % 2 ^ 23 = 0 by omega, show k + 2 - 1 = k + 1 by omega, pow_succ]
      ring

/-- A value is a multiple of `2 ^ k` units or smaller than `2 ^ 23` such multiples. -/
theorem f32Mag_dvd_or_lt (x : F32) (k : Nat) : 2 ^ k ∣ f32Mag x ∨ f32Mag x < 2 ^ 23 * 2 ^ k := by
  have hf : f32Frac x < 2 ^ 23 := Nat.mod_lt _ (by decide)
  unfold f32Mag
  split
  · exact .inr (lt_of_lt_of_le hf (Nat.le_mul_of_pos_right _ (Nat.two_pow_pos _)))
  · rcases Nat.lt_or_ge (f32Exp x - 1) k with h | h
    · have hpow : 2 ^ (f32Exp x - 1 + 1) ≤ 2 ^ k := Nat.pow_le_pow_right (by decide) h
      rw [pow_succ] at hpow
      have := Nat.mul_lt_mul_of_pos_right (show 2 ^ 23 + f32Frac x < 2 ^ 24 by omega) (Nat.two_pow_pos (f32Exp x - 1))
      exact .inr (by omega)
    · exact .inl (Dvd.dvd.mul_left (pow_dvd_pow 2 h) _)

/-- No value that is a multiple of the shifted unit, or smaller than `2 ^ 23` of them, is nearer than the rounded one. -/
theorem magDigits_asNear (num : Nat) {den : Nat} (hd : 0 < den) {y : Int}
    (hy : ((2 ^ magShift num den : Nat) : Int) ∣ y ∨ y.natAbs < 2 ^ 23 * 2 ^ magShift num den) :
    AsNear num den (magDigits num den * 2 ^ magShift num den : Nat) y (magDigits num den % 2 = 0) := by
  have near : ∀ j : Int, AsNear num (den * 2 ^ magShift num den : Nat) (magDigits num den) j (magDigits num den % 2 = 0) :=
    fun j => roundDiv_asNear num (Nat.mul_pos hd (Nat.two_pow_pos _)) j
  by_cases hdvd : ((2 ^ magShift num den : Nat) : Int) ∣ y
  · obtain ⟨j, rfl⟩ := hdvd
    rw [Nat.cast_mul, mul_comm _ j]
    exact (near j).scale
  · have hlt := hy.resolve_left hdvd
    have hk : magShift num den ≠ 0 := fun h0 => hdvd (by simp [h0])
    have hnum := magShift_le hk
    have hnear := (near (2 ^ 23)).scale.1
    rw [← Nat.cast_mul] at hnear
    generalize 2 ^ magShift num den = u at *
    have hy' : y * den < 2 ^ 23 * u * den := by
      exact mul_lt_mul_of_pos_right (by omega) (Int.natCast_pos.mpr hd)
    have hnum' : (2 ^ 23 : Int) * u * den ≤ num := by
      rw [mul_assoc, mul_comm (u : Int)]
      exact_mod_cast hnum
    generalize (2 ^ 23 : Int) * u * den = low at *
    exact ⟨by omega, fun he => absurd he (by omega)⟩

/-! ## Patterns -/

theorem f32Units_pack (s : Bool) {p : Nat} (h : p < 2 ^ 31) :
    f32Units (f32Pack s p) = if s then -(f32Mag (f32Pack s p) : Int) else f32Mag (f32Pack s p) := by
  rw [f32Units, f32Sign_pack s h]

theorem f32Finite_pack (s : Bool) {p : Nat} (h : p < 0x7F800000) : f32Finite (f32Pack s p) := by
  rw [f32Finite, f32Exp_pack s (by omega)]
  omega

/-- The last bit of a pattern with an even significand is 0. -/
theorem f32Pack_getLsbD_zero (s : Bool) {k q : Nat} (hp : k * 2 ^ 23 + q < 2 ^ 31) (hq : q % 2 = 0) :
    (f32Pack s (k * 2 ^ 23 + q)).getLsbD 0 = false := by
  rw [← BitVec.testBit_toNat, f32Pack_toNat s hp, Nat.testBit_zero, decide_eq_false_iff_not]
  cases s <;> simp only [if_true, Bool.false_eq_true, if_false] <;> omega

theorem f32IsNan_of_finite {x : F32} (h : f32Finite x) : f32IsNan x = false := by
  rw [f32IsNan, beq_eq_false_iff_ne.mpr h, Bool.false_and]

theorem f32IsInf_of_finite {x : F32} (h : f32Finite x) : f32IsInf x = false := by
  rw [f32IsInf, beq_eq_false_iff_ne.mpr h, Bool.false_and]

theorem f32IsNan_nan (op : Nat) (a b : F32) : f32IsNan (f32Nan op a b) = true := by
  have hp : 0x7FC00000 + (Config.nanBits op a b).toNat % 2 ^ 22 < 2 ^ 31 := by omega
  rw [f32Nan, f32IsNan, f32Exp_pack _ hp, f32Frac_pack _ hp, Bool.and_eq_true, beq_iff_eq, bne_iff_ne]
  omega

theorem f32Exp_neg (x : F32) : f32Exp (f32Neg x) = f32Exp x := by
  rw [f32Exp, f32Exp, f32Neg, BitVec.toNat_xor, ← Nat.shiftRight_eq_div_pow, ← Nat.shiftRight_eq_div_pow, Nat.shiftRight_xor_distrib,
    show 256 = 2 ^ 8 from rfl, Nat.xor_mod_two_pow]
  exact Nat.xor_zero _

theorem f32Frac_neg (x : F32) : f32Frac (f32Neg x) = f32Frac x := by
  rw [f32Frac, f32Frac, f32Neg, BitVec.toNat_xor, Nat.xor_mod_two_pow]
  exact Nat.xor_zero _

theorem f32Sign_neg (x : F32) : f32Sign (f32Neg x) = !f32Sign x := by
  rw [f32Sign, f32Neg, BitVec.msb_xor]
  exact Bool.xor_true _

theorem f32Finite_neg {x : F32} (h : f32Finite x) : f32Finite (f32Neg x) := by
  rwa [f32Finite, f32Exp_neg]

theorem f32Units_neg (x : F32) : f32Units (f32Neg x) = -f32Units x := by
  simp only [f32Units, f32Mag, f32Exp_neg, f32Frac_neg, f32Sign_neg]
  cases f32Sign x <;> simp

/-! ## The four operations -/

/-- `r` is `num / den` units rounded to nearest, as far as the finite value `x` can tell, or the infinity of its sign (R12). -/
def Rounded (x r : F32) (num : Int) (den : Nat) : Prop :=
  (num.natAbs < (2 ^ 25 - 1) * 2 ^ 252 * den → f32Finite r ∧ AsNear num den (f32Units r) (f32Units x) (r.getLsbD 0 = false))
    ∧ ((2 ^ 25 - 1) * 2 ^ 252 * den ≤ num.natAbs → r = if num < 0 then 0xFF800000#32 else 0x7F800000#32)

theorem natAbs_f32Units (x : F32) : (f32Units x).natAbs = f32Mag x := by
  unfold f32Units
  split <;> simp

/-- A value in units is a multiple of `2 ^ k` or smaller than `2 ^ 23` such multiples. -/
theorem f32Units_dvd_or_lt (x : F32) (k : Nat) : ((2 ^ k : Nat) : Int) ∣ f32Units x ∨ (f32Units x).natAbs < 2 ^ 23 * 2 ^ k := by
  rw [Int.natCast_dvd, natAbs_f32Units]
  exact f32Mag_dvd_or_lt x k

/-- The nearest magnitude with a sign is the signed value rounded. -/
theorem rounded_pack (x : F32) (s : Bool) (n : Nat) {den : Nat} (hd : 0 < den) :
    Rounded x (f32Pack s (roundMag n den)) (if s then -(n : Int) else n) den := by
  have habs : (if s then -(n : Int) else n).natAbs = n := by cases s <;> simp
  rw [Rounded, habs, ← roundMag_lt_inf_iff n hd, roundMag_eq]
  refine ⟨fun hfin => ?_, fun hinf => ?_⟩
  · have hp : magShift n den * 2 ^ 23 + magDigits n den < 2 ^ 31 := by omega
    have heven := f32Pack_getLsbD_zero s hp
    have hmag := f32Mag_pack_scaled s (magDigits_le n hd) (le_magDigits hd) hp
    rw [min_eq_left hfin.le, f32Units_pack s hp, hmag]
    refine ⟨f32Finite_pack s hfin, ?_⟩
    have hy := f32Units_dvd_or_lt x (magShift n den)
    cases s
    · exact (magDigits_asNear n hd hy).imp heven
    · rw [← neg_neg (f32Units x)]
      rw [← Int.dvd_neg, ← Int.natAbs_neg] at hy
      exact (magDigits_asNear n hd hy).neg.imp heven
  · have hpos : 0 < n := lt_of_lt_of_le (Nat.mul_pos (by decide) hd) hinf
    rw [← Nat.not_lt, ← roundMag_lt_inf_iff n hd, Nat.not_lt] at hinf
    rw [min_eq_right hinf]
    cases s
    · rw [if_neg (by simp)]; rfl
    · rw [if_pos (by simpa using hpos)]; rfl

/-- An exact zero, of whichever sign. -/
theorem rounded_zero (x : F32) (s : Bool) : Rounded x (f32Zero s) 0 1 := by
  simpa only [f32Zero, roundMag_zero, Nat.cast_zero, neg_zero, ite_self] using rounded_pack x s 0 one_pos

/-- The sum of finite values. -/
theorem rounded_addNum (x : F32) (op : Nat) {a b : F32} (ha : f32Finite a) (hb : f32Finite b) :
    Rounded x (f32AddNum op a b) (f32Units a + f32Units b) 1 := by
  simp only [f32AddNum, f32IsInf_of_finite ha, f32IsInf_of_finite hb, Bool.false_eq_true, if_false]
  generalize f32Units a + f32Units b = u
  split
  · next h0 =>
    rw [h0]
    exact rounded_zero x _
  · have hu : (if decide (u < 0) then -(u.natAbs : Int) else u.natAbs) = u := by
      simp only [decide_eq_true_eq]
      omega
    simpa only [hu] using rounded_pack x (decide (u < 0)) u.natAbs one_pos

theorem rounded_add (x : F32) {a b : F32} (ha : f32Finite a) (hb : f32Finite b) :
    Rounded x (f32Add a b) (f32Units a + f32Units b) 1 := by
  simpa only [f32Add, f32IsNan_of_finite ha, f32IsNan_of_finite hb, Bool.or_self, Bool.false_eq_true, if_false]
    using rounded_addNum x 0 ha hb

theorem rounded_sub (x : F32) {a b : F32} (ha : f32Finite a) (hb : f32Finite b) :
    Rounded x (f32Sub a b) (f32Units a - f32Units b) 1 := by
  rw [sub_eq_add_neg, ← f32Units_neg]
  simpa only [f32Sub, f32IsNan_of_finite ha, f32IsNan_of_finite hb, Bool.or_self, Bool.false_eq_true, if_false]
    using rounded_addNum x 1 ha (f32Finite_neg hb)

theorem rounded_mul (x : F32) {a b : F32} (ha : f32Finite a) (hb : f32Finite b) :
    Rounded x (f32Mul a b) (f32Units a * f32Units b) (2 ^ 149) := by
  have hprod : f32Units a * f32Units b
      = if (f32Sign a != f32Sign b) then -((f32Mag a * f32Mag b : Nat) : Int) else (f32Mag a * f32Mag b : Nat) := by
    unfold f32Units
    cases f32Sign a <;> cases f32Sign b <;> simp
  rw [hprod]
  simpa only [f32Mul, f32One, f32IsNan_of_finite ha, f32IsNan_of_finite hb, f32IsInf_of_finite ha, f32IsInf_of_finite hb, Bool.or_self,
    Bool.false_eq_true, if_false] using rounded_pack x (f32Sign a != f32Sign b) (f32Mag a * f32Mag b) (Nat.two_pow_pos 149)

theorem f32Units_eq_zero {x : F32} : f32Units x = 0 ↔ f32Mag x = 0 := by
  rw [← natAbs_f32Units, Int.natAbs_eq_zero]

/-- The quotient of finite values by one that is not zero. -/
theorem rounded_div (x : F32) {a b : F32} (ha : f32Finite a) (hb : f32Finite b) (h0 : f32Units b ≠ 0) :
    Rounded x (f32Div a b) ((if f32Units b < 0 then -f32Units a else f32Units a) * 2 ^ 149) (f32Units b).natAbs := by
  have hmag : f32Mag b ≠ 0 := fun h => h0 (f32Units_eq_zero.mpr h)
  have hquot : (if f32Units b < 0 then -f32Units a else f32Units a) * 2 ^ 149
      = if (f32Sign a != f32Sign b) then -((f32Mag a * f32One : Nat) : Int) else (f32Mag a * f32One : Nat) := by
    have hneg : f32Units b < 0 ↔ f32Sign b = true := by
      rw [f32Units]
      cases f32Sign b <;> simp
      omega
    simp only [hneg, Nat.cast_mul, show ((f32One : Nat) : Int) = 2 ^ 149 from rfl]
    unfold f32Units
    cases f32Sign a <;> cases f32Sign b <;> simp
  rw [hquot, natAbs_f32Units]
  simpa only [f32Div, f32IsNan_of_finite ha, f32IsNan_of_finite hb, f32IsInf_of_finite ha, f32IsInf_of_finite hb, Bool.or_self,
    Bool.false_eq_true, if_false, hmag] using rounded_pack x (f32Sign a != f32Sign b) (f32Mag a * f32One) (Nat.pos_of_ne_zero hmag)

/-- A finite value by zero: the infinity of the signs, or a NaN. -/
theorem f32Div_zero {a b : F32} (ha : f32Finite a) (hb : f32Finite b) (h0 : f32Units b = 0) :
    f32Div a b = if f32Units a = 0 then f32Nan 3 a b else f32Inf (f32Sign a != f32Sign b) := by
  simp only [f32Div, f32IsNan_of_finite ha, f32IsNan_of_finite hb, f32IsInf_of_finite ha, f32IsInf_of_finite hb, Bool.or_self,
    Bool.false_eq_true, if_false, f32Units_eq_zero.mp h0, if_true, f32Units_eq_zero]

/-- The infinity of two signs is positive when they agree. -/
theorem f32Inf_bne (s t : Bool) : f32Inf (s != t) = if s = t then 0x7F800000#32 else 0xFF800000#32 := by
  cases s <;> cases t <;> rfl

/-- Settles O20: every result is the exact one narrowed once by `roundMag`, which takes the nearest multiple of the unit that the
result's magnitude calls for. -/
theorem arithmeticRoundsToNearestEven : Obligations.ArithmeticRoundsToNearestEven := by
  unfold Obligations.ArithmeticRoundsToNearestEven
  intro a b x ha hb _
  refine ⟨rounded_add x ha hb, rounded_sub x ha hb, rounded_mul x ha hb, rounded_div x ha hb, fun h0 hne => ?_, fun h0 ha0 => ?_⟩
  · rw [f32Div_zero ha hb h0, if_neg hne, f32Inf_bne]
  · rw [f32Div_zero ha hb h0, if_pos ha0, f32IsNan_nan]

end Sys2Proof.Machine
end

section
/-!
SUPPORT. The main loop's programs leave the configuration as it is, and those without conditions always come to their end. The
configuration matters because what is left of an operation is read from it at every micro-step.
-/

namespace Sys2Proof.Machine

/-! ## Programs without conditions that leave the configuration alone -/

/-- The block has the configuration `c`. -/
def HasCfg (c : Config) (b : Block) : Prop := b.cfg = c

/-- A program without conditions whose micro-steps leave the configuration `c` alone. -/
structure Prog.Steady (c : Config) (p : Prog α) : Prop where
  total : p.Total
  keeps : p.Keeps (HasCfg c)

variable {c : Config}

theorem Prog.Steady.ret (a : α) : (Prog.ret a).Steady c := ⟨True.intro, True.intro⟩

theorem Prog.Steady.bind {p : Prog α} {q : α → Prog β} (hp : p.Steady c) (hq : ∀ a, (q a).Steady c) : (p.bind q).Steady c :=
  ⟨hp.total.bind fun a => (hq a).total, hp.keeps.bind fun a => (hq a).keeps⟩

theorem Prog.Steady.andThen {p : Prog α} {q : Prog β} (hp : p.Steady c) (hq : q.Steady c) : (p.andThen q).Steady c :=
  hp.bind fun _ => hq

theorem Prog.Steady.forEach {body : Nat → Prog Unit} (h : ∀ i, (body i).Steady c) (is : List Nat) :
    (Prog.forEach body is).Steady c :=
  ⟨.forEach (fun i => (h i).total) is, .forEach (fun i => (h i).keeps) is⟩

theorem Prog.Steady.micro {f : Block → Block × Nat} {k : Nat → Prog α} (hf : ∀ b, (f b).1.cfg = b.cfg) (hk : ∀ n, (k n).Steady c) :
    (Prog.micro f k).Steady c :=
  ⟨fun n => (hk n).total, fun b hb => (hf b).trans hb, fun n => (hk n).keeps⟩

theorem Prog.Steady.act {f : Block → Block} (hf : ∀ b, (f b).cfg = b.cfg := by exact fun _ => rfl) : (Prog.act f).Steady c :=
  .micro hf fun _ => .ret _

theorem Prog.Steady.ask (g : Block → Nat) : (Prog.ask g).Steady c := .micro (fun _ => rfl) fun _ => .ret _

theorem Prog.Steady.askBytes (g : Nat → Block → Byte) (n k : Nat) : (Prog.askBytes g n k).Steady c :=
  ⟨.askBytes g n k, .askBytes g n k⟩

theorem steady_readReg (r : Reg w) : (readReg r).Steady c := ⟨total_readReg r, keeps_readReg r⟩

theorem steady_writeReg {r : Reg w} {v : BitVec w} (h : ∀ x b, (r.set x b).cfg = b.cfg := by exact fun _ _ => rfl) :
    (writeReg r v).Steady c :=
  ⟨total_writeReg r v, keeps_writeReg (fun x b hb => (h x b).trans hb) v⟩

theorem steady_modifyReg {r : Reg w} {f : BitVec w → BitVec w} (h : ∀ x b, (r.set x b).cfg = b.cfg := by exact fun _ _ => rfl) :
    (modifyReg r f).Steady c :=
  (steady_readReg r).bind fun _ => steady_writeReg h

theorem steady_copyReg {src dst : Reg w} (h : ∀ x b, (dst.set x b).cfg = b.cfg := by exact fun _ _ => rfl) :
    (copyReg src dst).Steady c :=
  (steady_readReg src).bind fun _ => steady_writeReg h

theorem steady_orStatusProg (n : Nat) : (orStatusProg n).Steady c := steady_modifyReg

theorem steady_endPhase (p : BitVec 4) : (endPhase p).Steady c := .act

theorem steady_returns (r : Result) : (returns r).Steady c := .act

theorem keeps_modifyReg {P : Block → Prop} {r : Reg w} {f : BitVec w → BitVec w} (h : ∀ x b, P b → P (r.set x b)) :
    (modifyReg r f).Keeps P :=
  (keeps_readReg r).bind fun _ => keeps_writeReg h _

/-! ## Framer and parser -/

theorem steady_parseGga (d : Config) (line : List Byte) : (parseGga d line).Steady c := by
  unfold parseGga
  split
  · exact .andThen steady_writeReg <| .andThen steady_writeReg <| .andThen steady_writeReg <| .andThen steady_writeReg <|
      .andThen steady_writeReg <| .andThen steady_writeReg <| steady_orStatusProg _
  · exact .ret _

theorem steady_parseRmc (d : Config) (line : List Byte) : (parseRmc d line).Steady c := by
  unfold parseRmc
  split
  · exact .andThen steady_writeReg <| .andThen steady_writeReg <| .andThen steady_writeReg <| .andThen steady_writeReg <|
      steady_orStatusProg _
  · exact .ret _

theorem steady_parseLine (d : Config) (line : List Byte) : (parseLine d line).Steady c := by
  unfold parseLine
  split
  · exact steady_parseGga d line
  · split
    · exact steady_parseRmc d line
    · exact .ret _

theorem freeReady_cfg (i : Nat) (b : Block) : (freeReady i b).cfg = b.cfg := by
  unfold freeReady
  split <;> rfl

theorem steady_copyRaw (d : Config) (i : Nat) : (copyRaw d i).Steady c :=
  .forEach (fun _ => (Prog.Steady.ask _).bind fun _ => .act) _

theorem steady_drainSlot (d : Config) (i : Nat) : (drainSlot d i).Steady c := by
  refine .andThen ?_ <| (Prog.Steady.askBytes _ _ _).bind fun line => .andThen ?_ (.act (freeReady_cfg i))
  · split
    · exact steady_copyRaw d i
    · exact .ret _
  · split
    · exact steady_parseLine d line
    · exact steady_orStatusProg _

theorem steady_drainTurn (d : Config) (i : Nat) : (drainTurn d i).Steady c := by
  refine (Prog.Steady.ask _).bind fun r => ?_
  split
  · exact steady_drainSlot d i
  · exact .ret _

theorem steady_frmDrainProg (d : Config) : (frmDrainProg d).Steady c :=
  (Prog.Steady.micro (fun _ => rfl) fun _ => .ret _).bind fun _ =>
    .andThen steady_modifyReg <| (Prog.Steady.forEach (steady_drainTurn d) _).andThen <| steady_endPhase _

/-! ## Encoder and estimator -/

theorem steady_drainCells (j k : Fin 2) : (drainCells j k).Steady c := by
  refine .andThen steady_writeReg <| .andThen .act <| .andThen .act <| .andThen steady_copyReg <|
    (Prog.Steady.ask _).bind fun _ => .andThen steady_writeReg <| (Prog.Steady.ask _).bind fun e => .andThen ?_ (steady_endPhase _)
  split
  · exact steady_orStatusProg _
  · exact .ret _

theorem steady_encDrainProg : encDrainProg.Steady c := (Prog.Steady.ask _).bind fun _ => steady_drainCells _ _

theorem steady_integrate (along : F32 → F32) {coord : Reg 32} (d : F32) (h : ∀ x b, (coord.set x b).cfg = b.cfg) :
    (integrate along coord d).Steady c :=
  (steady_readReg _).bind fun _ => (steady_readReg _).bind fun _ => steady_writeReg h

theorem steady_estUpdateProg (d : Config) : (estUpdateProg d).Steady c := by
  refine .andThen steady_copyReg <| (steady_readReg _).bind fun st => .andThen ?_ (steady_endPhase _)
  split
  · exact .andThen steady_copyReg steady_copyReg
  · refine (steady_readReg _).bind fun v => ?_
    split
    · exact (steady_readReg _).bind fun _ =>
        (steady_integrate _ _ fun _ _ => rfl).andThen (steady_integrate _ _ fun _ _ => rfl)
    · exact .ret _

/-! ## Guidance -/

theorem keeps_withWaypoint (d : Config) {use : Waypoint → Prog Unit} (h : ∀ w, (use w).Keeps (HasCfg c)) :
    (withWaypoint d use).Keeps (HasCfg c) := by
  refine (keeps_readReg _).bind fun i => (Prog.Keeps.require _).andThen ?_
  split
  · exact h _
  · exact .ret _

theorem keeps_advanceProg (d : Config) (fuel : Nat) : (advanceProg d fuel).Keeps (HasCfg c) := by
  induction fuel with
  | zero => exact .ret _
  | succ fuel ih =>
    refine keeps_withWaypoint d fun w => (keeps_readReg _).bind fun px => (keeps_readReg _).bind fun py => ?_
    split
    · exact .andThen (keeps_modifyReg fun _ _ h => h) ih
    · exact .ret _

theorem keeps_aimProg (d : Config) : (aimProg d).Keeps (HasCfg c) :=
  (keeps_readReg _).bind fun _ => (keeps_readReg _).bind fun _ => (keeps_readReg _).bind fun _ =>
    keeps_withWaypoint d fun _ => (keeps_writeReg (fun _ _ h => h) _)

theorem keeps_gdeUpdateProg (d : Config) : (gdeUpdateProg d).Keeps (HasCfg c) :=
  (keeps_advanceProg d _).andThen <| (keeps_aimProg d).andThen (steady_endPhase _).keeps

/-! ## Actuation -/

theorem pulseStart_cfg (ch : Channel) (b : Block) : (pulseStart ch b).cfg = b.cfg := setPulse_cfg ch _ b

theorem steady_caseDrive {arm : DriveState → Prog Unit} (h : ∀ d, (arm d).Steady c) : (caseDrive arm).Steady c := by
  refine (Prog.Steady.ask _).bind fun n => ?_
  split
  · exact h _
  · split
    · exact h _
    · split <;> exact h _

theorem steady_driveForward (us : U16) : (driveForward us).Steady c :=
  .andThen steady_writeReg <| .andThen .act steady_writeReg

theorem steady_rampToNeutral (d : Config) (step : Nat) : (rampToNeutral d step).Steady c := by
  refine (steady_readReg _).bind fun t => ?_
  split
  · exact steady_writeReg
  · exact .andThen steady_writeReg .act

theorem steady_driveStop (d : Config) : (driveStop d).Steady c := by
  refine steady_caseDrive fun st => ?_
  cases st with
  | neutral => exact steady_writeReg
  | preReverse => exact .andThen steady_writeReg <| .andThen .act steady_writeReg
  | forward => exact steady_rampToNeutral _ _
  | reverse => exact steady_rampToNeutral _ _

theorem steady_driveReverse (d : Config) (target : U16) : (driveReverse d target).Steady c := by
  refine steady_caseDrive fun st => ?_
  cases st with
  | reverse => exact steady_modifyReg
  | forward => exact steady_rampToNeutral _ _
  | neutral => exact .andThen .act <| .andThen steady_writeReg steady_writeReg
  | preReverse =>
    refine .andThen steady_modifyReg <| (steady_readReg _).bind fun h => ?_
    split
    · exact .act
    · exact .ret _

theorem keeps_driveWaypoint (d : Config) (w : Waypoint) : (driveWaypoint d w).Keeps (HasCfg c) := by
  have harm : ∀ cmd p, driveOf d cmd = some p → p.Keeps (HasCfg c) := by
    intro cmd p h
    cases cmd with
    | stop => exact Option.some.inj h ▸ (steady_driveStop d).keeps
    | fwd k =>
      obtain ⟨us, -, rfl⟩ := Option.map_eq_some_iff.mp h
      exact (steady_driveForward us).keeps
    | rev k =>
      obtain ⟨us, -, rfl⟩ := Option.map_eq_some_iff.mp h
      exact (steady_driveReverse d us).keeps
  unfold driveWaypoint
  split
  · next p h => exact harm _ p h
  · exact .require _

theorem keeps_actUpdateProg (d : Config) : (actUpdateProg d).Keeps (HasCfg c) :=
  (keeps_readReg _).bind fun _ => .andThen (keeps_writeReg (fun _ _ h => h) _) <| (keeps_withWaypoint d (keeps_driveWaypoint d)).andThen <|
    (Prog.Steady.andThen (.act (pulseStart_cfg _)) <| .andThen (.act (pulseStart_cfg _)) <| steady_endPhase _).keeps

theorem steady_startupPulse (d : Config) : (startupPulse d).Steady c :=
  .andThen steady_writeReg <| .andThen .act <| (Prog.Steady.act (pulseStart_cfg _)).andThen <| .act (pulseStart_cfg _)

theorem steady_actStartupProg (d : Config) : (actStartupProg d).Steady c := by
  refine .andThen (.andThen steady_writeReg <| .andThen steady_writeReg <| .andThen .act steady_writeReg) ?_
  split
  · exact .ret _
  · exact steady_startupPulse d

/-! ## Heading -/

theorem keeps_hdgBeginProg : hdgBeginProg.Keeps (HasCfg c) :=
  (Prog.Keeps.require _).andThen <| .andThen (.act fun _ h => h) (.act fun _ h => h)

theorem keeps_rearm : rearm.Keeps (HasCfg c) := .andThen (.act fun _ h => h) <| .andThen (.act fun _ h => h) keeps_hdgBeginProg

theorem keeps_pollDone : pollDone.Keeps (HasCfg c) :=
  (keeps_readReg _).bind fun _ => .andThen (keeps_writeReg (fun _ _ h => h) _) <| .andThen (keeps_writeReg (fun _ _ h => h) _) <|
    (keeps_readReg _).bind fun _ => .andThen (keeps_writeReg (fun _ _ h => h) _) <| keeps_rearm.andThen (steady_returns _).keeps

theorem keeps_pollError (d : Config) : (pollError d).Keeps (HasCfg c) :=
  .andThen (keeps_writeReg (fun _ _ h => h) _) <| (steady_orStatusProg _).keeps.andThen <| keeps_rearm.andThen (steady_returns _).keeps

theorem keeps_pollIdle : pollIdle.Keeps (HasCfg c) := by
  refine (Prog.Keeps.ask _).bind fun busy => .andThen ?_ (steady_returns _).keeps
  split
  · exact keeps_hdgBeginProg
  · exact .ret _

theorem keeps_hdgPollProg (d : Config) : (hdgPollProg d).Keeps (HasCfg c) := by
  refine (Prog.Keeps.ask _).bind fun st => .andThen ?_ (steady_endPhase _).keeps
  split
  · exact keeps_pollDone
  · split
    · exact keeps_pollError d
    · split
      · exact keeps_pollIdle
      · exact (steady_returns _).keeps

/-! ## Storage -/

theorem steady_xchg (v : Byte) : (xchg v).Steady c := .micro (fun _ => rfl) fun _ => .ret _

theorem steady_sendBytes (vs : List Byte) : (sendBytes vs).Steady c := by
  induction vs with
  | nil => exact .ret _
  | cons v vs ih => exact (steady_xchg v).andThen ih

theorem steady_recvBytes (fl : Byte) (n : Nat) : (recvBytes fl n).Steady c := by
  induction n with
  | zero => exact .ret _
  | succ n ih => exact (steady_xchg fl).bind fun _ => ih.bind fun _ => .ret _

theorem steady_answerPoll (fl : Byte) (n : Nat) : (answerPoll fl n).Steady c := by
  induction n with
  | zero => exact .ret _
  | succ n ih =>
    refine (steady_xchg fl).bind fun r => ?_
    split
    · exact ih
    · exact .ret _

theorem steady_tokenPoll (fl : Byte) (n : Nat) : (tokenPoll fl n).Steady c := by
  induction n with
  | zero => exact .ret _
  | succ n ih =>
    refine (steady_xchg fl).bind fun r => ?_
    split
    · exact ih
    · exact .ret _

theorem steady_command (d : Config) (f : CmdFrame) : (command d f).Steady c :=
  .andThen .act <| (steady_sendBytes _).andThen <| steady_answerPoll _ _

theorem steady_deselectWith (a : α) : (deselect.andThen (.ret a)).Steady c := .andThen .act (.ret a)

theorem steady_commandAlone (d : Config) (f : CmdFrame) : (commandAlone d f).Steady c :=
  (steady_command d f).bind fun _ => steady_deselectWith _

theorem steady_cmdIfcond (d : Config) : (cmdIfcond d).Steady c := by
  refine (steady_command d _).bind fun r => ?_
  split
  · exact (steady_recvBytes _ _).bind fun _ => steady_deselectWith _
  · exact steady_deselectWith _

theorem steady_cmdReadocr (d : Config) : (cmdReadocr d).Steady c := by
  refine (steady_command d _).bind fun r => ?_
  split
  · exact (steady_recvBytes _ _).bind fun _ => steady_deselectWith _
  · exact steady_deselectWith _

theorem steady_recvInto (fl : Byte) {keep : Nat → Byte → Prog Unit} (hk : ∀ i v, (keep i v).Steady c) (n i : Nat) :
    (recvInto fl keep n i).Steady c := by
  induction n generalizing i with
  | zero => exact .ret _
  | succ n ih => exact (steady_xchg fl).bind fun _ => (hk _ _).andThen (ih _)

theorem steady_readData (d : Config) {keep : Nat → Byte → Prog Unit} (hk : ∀ i v, (keep i v).Steady c) (n : Nat) :
    (readData d keep n).Steady c := by
  refine (steady_tokenPoll _ _).bind fun t => ?_
  split
  · exact (steady_recvInto _ hk _ _).andThen <| (steady_recvBytes _ _).bind fun _ => .ret _
  · exact .ret _

theorem steady_readBlockData (d : Config) {keep : Nat → Byte → Prog Unit} (hk : ∀ i v, (keep i v).Steady c)
    {forget : Block → Block} (hf : ∀ b, (forget b).cfg = b.cfg) (n : Nat) (r : Option Byte) :
    (readBlockData d keep forget n r).Steady c := by
  refine .bind ?_ fun ok => .andThen ?_ (steady_deselectWith _)
  · split
    · exact steady_readData d hk n
    · exact .ret _
  · split
    · exact .ret _
    · exact .act hf

theorem steady_keepCsd (i : Nat) (v : Byte) : (keepCsd i v).Steady c := .act

theorem steady_cmdReadcsd (d : Config) : (cmdReadcsd d).Steady c :=
  (steady_command d _).bind fun _ => steady_readBlockData d steady_keepCsd forgetCsd_cfg _ _

theorem steady_keepLead (i : Nat) (v : Byte) : (keepLead i v).Steady c := by
  unfold keepLead
  split
  · exact .act
  · exact .ret _

theorem steady_probeBlock (d : Config) (a : Nat) : (probeBlock d a).Steady c := by
  refine .bind ?_ fun ok => ?_
  · exact (steady_command d _).bind fun _ => steady_readBlockData d steady_keepLead forgetLead_cfg _ _
  · split
    · exact (Prog.Steady.askBytes _ _ _).bind fun _ => .ret _
    · exact .ret _

theorem steady_bisect {probe : Nat → Prog (Option Bool)} (hp : ∀ a, (probe a).Steady c) (fuel lo hi : Nat) :
    (bisect probe fuel lo hi).Steady c := by
  induction fuel generalizing lo hi with
  | zero => exact .ret _
  | succ fuel ih =>
    unfold bisect
    split
    · refine (hp _).bind fun r => ?_
      match r with
      | none => exact .ret _
      | some true => exact ih _ _
      | some false => exact ih _ _
    · exact .ret _

theorem steady_searchWith {probe : Nat → Prog (Option Bool)} (hp : ∀ a, (probe a).Steady c) (cap : Nat) :
    (searchWith probe cap).Steady c := by
  refine (hp _).bind fun r => ?_
  match r with
  | none => exact .ret _
  | some false => exact .ret _
  | some true =>
    refine (steady_bisect hp _ _ _).bind fun k => ?_
    cases k <;> exact .ret _

theorem steady_findBlock (d : Config) : (findBlock d).Steady c := by
  refine (steady_readReg _).bind fun cap => (steady_searchWith (steady_probeBlock d) _).bind fun k => ?_
  cases k with
  | none => exact .andThen .act (.ret _)
  | some k => exact .ret _

theorem steady_opcondLoop (d : Config) (n : Nat) : (opcondLoop d n).Steady c := by
  induction n with
  | zero => exact .ret _
  | succ n ih =>
    refine (steady_commandAlone d _).bind fun a => ?_
    split
    · refine (steady_commandAlone d _).bind fun r => ?_
      split
      · exact .ret _
      · split
        · exact ih
        · exact .ret _
    · exact .ret _

theorem steady_orFail {step : Prog Bool} {next : Prog Unit} (hs : step.Steady c) (hn : next.Steady c) :
    (orFail step next).Steady c := by
  refine hs.bind fun ok => ?_
  split
  · exact hn
  · exact .act

theorem steady_stoInitProg (d : Config) : (stoInitProg d).Steady c := by
  refine .andThen .act <| .andThen .act <|
    steady_orFail ((steady_commandAlone d _).bind fun _ => .ret _) <| steady_orFail (steady_cmdIfcond d) <|
    steady_orFail (steady_opcondLoop d _) <| steady_orFail ((steady_cmdReadocr d).bind fun _ => .ret _) <|
    .andThen .act <| steady_orFail (steady_cmdReadcsd d) <|
    .andThen ((Prog.Steady.askBytes _ _ _).bind fun _ => steady_writeReg) <| (steady_findBlock d).bind fun k => ?_
  cases k with
  | none => exact .act
  | some k => exact .andThen steady_writeReg .act

theorem steady_sendRecord (n i : Nat) : (sendRecord n i).Steady c := by
  induction n generalizing i with
  | zero => exact .ret _
  | succ n ih => exact .andThen (.micro (fun _ => rfl) fun _ => .ret _) (ih _)

theorem steady_busyPoll (d : Config) (n : Nat) : (busyPoll d n).Steady c := by
  induction n with
  | zero => exact .ret _
  | succ n ih =>
    refine (steady_xchg _).bind fun r => ?_
    split
    · exact ih
    · exact .ret _

theorem steady_writeData (d : Config) : (writeData d).Steady c := by
  refine (steady_sendBytes _).andThen <| (steady_sendRecord _ _).andThen <| (steady_sendBytes _).andThen <|
    (steady_xchg _).bind fun r => ?_
  split
  · exact steady_busyPoll d _
  · exact .ret _

theorem steady_writeRecord (d : Config) : (writeRecord d).Steady c := by
  refine (steady_readReg _).bind fun a => (steady_command d _).bind fun r => .bind ?_ fun ok => ?_
  · split
    · exact steady_writeData d
    · exact .ret _
  · split
    · exact .andThen .act steady_modifyReg
    · exact .andThen .act .act

theorem steady_stoWriteProg (d : Config) : (stoWriteProg d).Steady c := by
  refine (Prog.Steady.ask _).bind fun enabled => .andThen ?_ (steady_endPhase _)
  split
  · refine (steady_readReg _).bind fun next => (steady_readReg _).bind fun cap => ?_
    split
    · exact .act
    · exact steady_writeRecord d
  · exact .ret _

/-! ## The operations of the main loop -/

theorem steady_schStclrProg : schStclrProg.Steady c := .andThen steady_writeReg (steady_endPhase _)

/-- No operation of the main loop changes the configuration. -/
theorem keeps_loopProg (d : Config) (which : LoopOp) : (loopProg d which).Keeps (HasCfg c) := by
  cases which with
  | frmDrain => exact (steady_frmDrainProg d).keeps
  | hdgPoll => exact keeps_hdgPollProg d
  | encDrain => exact steady_encDrainProg.keeps
  | estUpdate => exact (steady_estUpdateProg d).keeps
  | gdeUpdate => exact keeps_gdeUpdateProg d
  | actUpdate => exact keeps_actUpdateProg d
  | stoWrite => exact (steady_stoWriteProg d).keeps
  | schStclr => exact steady_schStclrProg.keeps
  | actStartup => exact (steady_actStartupProg d).keeps
  | startupPulse left => exact (steady_startupPulse d).keeps
  | stoInit => exact (steady_stoInitProg d).keeps
  | hdgBegin => exact keeps_hdgBeginProg

end Sys2Proof.Machine
end

section
/-!
SUPPORT. A run of micro-steps with no other agent between them is the whole operation (`00_scope.md` rule R11, `20_memory.md` rules
R67 and R71).
-/

namespace Sys2Proof.Machine

/-! ## Programs one micro-step at a time -/

/-- The number of micro-steps a program makes from a block when nothing comes between them. -/
def Prog.steps : Prog α → Block → Nat
  | .ret _, _ => 0
  | .micro f k, b => (k (f b).2).steps (f b).1 + 1
  | .need _ k, b => k.steps b

/-- A program with nothing left to do makes no micro-step and leaves the block as it is. -/
theorem Prog.steps_of_isDone {p : Prog α} {b : Block} {r : α × Block} (hd : p.isDone = true) (ha : p.attempt b = .ok r) :
    p.steps b = 0 ∧ p.first b = none ∧ r.2 = b := by
  rw [← Prog.run_of_attempt ha]
  clear ha
  induction p with
  | ret a => exact ⟨rfl, rfl, rfl⟩
  | micro f k ih => exact absurd hd (by simp [Prog.isDone])
  | need why k ih => exact ih hd

/-- A program with something left to do, none of whose conditions fail, can make a micro-step, and the rest of it does what the
whole would. -/
theorem Prog.attempt_first {p : Prog α} {b : Block} {r : α × Block} (hd : p.isDone = false) (ha : p.attempt b = .ok r) :
    ∃ x, p.first b = some x ∧ p.blocked b = none ∧ (p.follow [x.2]).attempt x.1 = .ok r
      ∧ p.steps b = (p.follow [x.2]).steps x.1 + 1 := by
  induction p with
  | ret a => exact absurd hd (by simp [Prog.isDone])
  | micro f k ih =>
    refine ⟨f b, rfl, rfl, ?_⟩
    rw [Prog.follow_micro, Prog.follow_nil]
    exact ⟨ha, rfl⟩
  | need why k ih =>
    cases hw : why b with
    | none =>
      rw [Prog.attempt_need_none k hw] at ha
      obtain ⟨x, hfirst, hblocked, hrest⟩ := ih hd ha
      exact ⟨x, hfirst, by rw [Prog.blocked, hw]; exact hblocked, hrest⟩
    | some e => exact absurd ha (by simp [Prog.attempt_need_some k hw])

/-! ## The main loop's micro-steps -/

theorem remaining_append (c : Config) (which : LoopOp) (path : List Nat) (n : Nat) :
    remaining c which (path ++ [n]) = (remaining c which path).follow [n] := Prog.follow_append _ _ _

theorem keeps_remaining (c : Config) (which : LoopOp) (path : List Nat) : (remaining c which path).Keeps (HasCfg c) :=
  (keeps_loopProg c which).follow path

theorem advance_of_first {which : LoopOp} {path : List Nat} {s : State} {x : Block × Nat}
    (h : (remaining s.blk.cfg which path).first s.blk = some x) :
    advance which path s = { s with blk := x.1, task := taskAfter s.blk.cfg which (path ++ [x.2]) } := by
  rw [advance, h]

theorem advance_of_first_none {which : LoopOp} {path : List Nat} {s : State}
    (h : (remaining s.blk.cfg which path).first s.blk = none) :
    advance which path s = { s with task := nextTask s.blk.cfg which } := by
  rw [advance, h]

/-- The main loop goes on with the operation in progress. -/
theorem mainStep_op {which : LoopOp} {path : List Nat} {s : State} (ht : s.task = some (.op which path))
    (hb : (remaining s.blk.cfg which path).blocked s.blk = none) : mainStep s = .next (advance which path s) := by
  rw [mainStep, ht]
  simp only [microStep, hb]

/-- From any place in an operation the remaining micro-steps come to what is left of it as a whole. -/
theorem runTask_remaining {c : Config} {which : LoopOp} {path : List Nat} {s : State} {r : Unit × Block} (hc : s.blk.cfg = c)
    (ht : s.task = taskAfter c which path) (ha : (remaining c which path).attempt s.blk = .ok r) :
    runTask ((remaining c which path).steps s.blk) s = { s with blk := r.2, task := nextTask c which } := by
  induction hn : (remaining c which path).steps s.blk generalizing path s with
  | zero =>
    cases hd : (remaining c which path).isDone with
    | true =>
      rw [taskAfter, if_pos hd] at ht
      rw [(Prog.steps_of_isDone hd ha).2.2, ← ht]
      rfl
    | false =>
      obtain ⟨x, -, -, -, hsteps⟩ := Prog.attempt_first hd ha
      omega
  | succ n ih =>
    cases hd : (remaining c which path).isDone with
    | true => exact absurd (Prog.steps_of_isDone hd ha).1 (by omega)
    | false =>
      obtain ⟨x, hfirst, hblocked, hrest, hsteps⟩ := Prog.attempt_first hd ha
      rw [taskAfter, hd] at ht
      have hcfg : x.1.cfg = c := (keeps_remaining c which path).first hc hfirst
      subst hc
      rw [← remaining_append] at hrest hsteps
      rw [runTask, ht]
      simp only [mainStep_op ht hblocked, outcomeState, advance_of_first hfirst]
      exact ih hcfg rfl hrest (Nat.succ.inj (hsteps.symm.trans hn))

/-- An operation begun and gone on with comes to the whole operation. -/
theorem runTask_advance {which : LoopOp} {s : State} {r : Unit × Block} (ha : (loopProg s.blk.cfg which).attempt s.blk = .ok r) :
    ∃ n, runTask n (advance which [] s) = { s with blk := r.2, task := nextTask s.blk.cfg which } := by
  have hnil : remaining s.blk.cfg which [] = loopProg s.blk.cfg which := Prog.follow_nil _
  rw [← hnil] at ha
  cases hd : (remaining s.blk.cfg which []).isDone with
  | true =>
    obtain ⟨-, hfirst, hblk⟩ := Prog.steps_of_isDone hd ha
    exact ⟨0, by rw [advance_of_first_none hfirst, hblk]; rfl⟩
  | false =>
    obtain ⟨x, hfirst, -, hrest, -⟩ := Prog.attempt_first hd ha
    have hcfg : x.1.cfg = s.blk.cfg := (keeps_remaining _ which []).first (rfl : HasCfg _ s.blk) hfirst
    rw [← remaining_append] at hrest
    rw [advance_of_first hfirst]
    exact ⟨_, runTask_remaining (s := { s with blk := x.1, task := _ }) hcfg rfl hrest⟩

/-! ## The whole operations -/

/-- A whole operation is an attempt of its program; beside the block it writes at most the task. -/
def RunsProg (p : Prog Unit) (s t : State) : Prop := ∃ r, p.attempt s.blk = .ok r ∧ t = { s with blk := r.2, task := t.task }

theorem runsProg_of_perform {p : Prog Unit} {s t : State} (h : perform p s = .next t) : RunsProg p s t := by
  obtain ⟨r, hr, -, rfl⟩ := perform_next h
  exact ⟨r, hr, rfl⟩

theorem runsProg_of_complete {p : Prog Unit} (hp : p.Total) {s t : State} (h : complete p s = .next t) : RunsProg p s t :=
  runsProg_of_perform (hp.perform s ▸ h)

theorem runsProg_of_execActStartup {s t : State} (h : execActStartup s = .next t) : RunsProg (actStartupProg s.blk.cfg) s t := by
  obtain rfl := Host.Outcome.next.inj h
  exact ⟨_, (steady_actStartupProg (c := s.blk.cfg) _).total.attempt _, rfl⟩

/-- The instruction that an operation of the main loop is runs that operation's program. -/
theorem exec_loopInstr {which : LoopOp} {i : Instr} {s t : State} (hi : loopInstr which = some i) (h : exec i s = .next t) :
    RunsProg (loopProg s.blk.cfg which) s t := by
  cases which <;> cases hi
  case frmDrain => exact runsProg_of_complete (steady_frmDrainProg (c := s.blk.cfg) _).total h
  case hdgPoll => exact runsProg_of_perform h
  case encDrain => exact runsProg_of_complete (steady_encDrainProg (c := s.blk.cfg)).total h
  case estUpdate => exact runsProg_of_complete (steady_estUpdateProg (c := s.blk.cfg) _).total h
  case gdeUpdate => exact runsProg_of_perform h
  case actUpdate => exact runsProg_of_perform h
  case stoWrite => exact runsProg_of_complete (steady_stoWriteProg (c := s.blk.cfg) _).total h
  case schStclr => exact runsProg_of_complete (steady_schStclrProg (c := s.blk.cfg)).total h
  case actStartup => exact runsProg_of_execActStartup h
  case stoInit => exact runsProg_of_complete (steady_stoInitProg (c := s.blk.cfg) _).total h
  case hdgBegin => exact runsProg_of_perform h

/-- Settles O8: the instruction attempts the operation's program, and the micro-steps make the attempt one by one. -/
theorem microStepsMakeTheOperation : Obligations.MicroStepsMakeTheOperation := by
  unfold Obligations.MicroStepsMakeTheOperation
  intro s t which i hi h
  obtain ⟨r, ha, ht⟩ := exec_loopInstr hi h
  rw [ht]
  exact runTask_advance ha

end Sys2Proof.Machine
end

section
/-!
SUPPORT. The fetch of a scripted operation (log 6).
-/

namespace Sys2Proof.Machine

/-- Under an accepted configuration an encoded first entry is fetched and performed. -/
theorem step_wire {s : State} {w : Wire} {script : List Input} (hcfg : s.blk.cfg.ok = true) (hs : s.script = .wire w :: script) :
    step s = runWire w script s := by
  rw [step, if_pos hcfg, stepConfigured, hs]

/-- An entry that decodes is performed, and what it leaves of its bytes stays in front of the script. -/
theorem runWire_of_decode {s : State} {w : Wire} {i : Instr} {rest : List Byte} (script : List Input)
    (hd : decode s.blk.cfg w.fmt w.bytes = .ok (i, rest)) :
    runWire w script s = exec i { s with script := scriptRest w.fmt rest script } := by
  rw [runWire, hd]

/-- Settles O5: the two lemmas above, one after the other. -/
theorem stepRunsDecodedInstruction : Obligations.StepRunsDecodedInstruction := by
  unfold Obligations.StepRunsDecodedInstruction
  intro s w script i rest hcfg hs hd
  rw [step_wire hcfg hs, runWire_of_decode script hd, scriptRest]

end Sys2Proof.Machine
end

section
/-!
SUPPORT. What the main loop's programs keep. A calm program moves neither `phase` nor, but upwards, `wp_index`, and leads from good
blocks to good blocks; an operation of the cycle is calm up to its last micro-step, which writes the next phase.
-/

namespace Sys2Proof.Machine

/-! ## Reserved status bits -/

theorem statusReservedClear_iff {st : U32} : statusReservedClear st = true ↔ ∀ i, 9 ≤ i → st.getLsbD i = false := by
  have hmask : ∀ i : Fin 32, (0xFFFFFE00#32).getLsbD i = decide (9 ≤ i.val) := by decide
  rw [statusReservedClear, beq_iff_eq]
  constructor
  · intro h i hi
    by_cases hw : i < 32
    · have hbit := congrArg (·.getLsbD i) h
      simpa [hmask ⟨i, hw⟩, hi] using hbit
    · exact BitVec.getLsbD_of_ge _ _ (by omega)
  · intro h
    refine BitVec.eq_of_getLsbD_eq fun i hw => ?_
    by_cases hi : 9 ≤ i
    · simp [h i hi]
    · simp [hmask ⟨i, hw⟩, hi]

/-- A word of which some bytes are written keeps the reserved bits clear when both words have them clear. -/
theorem statusReservedClear_mergeByte {k : Nat} {v old : U32} (hv : statusReservedClear v = true)
    (ho : statusReservedClear old = true) : statusReservedClear (mergeByte k v old) = true := by
  rw [statusReservedClear_iff] at *
  intro i hi
  rw [mergeByte_getLsbD]
  split
  · exact hv i hi
  · exact ho i hi

theorem statusReservedClear_latchStatus (n : Nat) {st : U32} (h : statusReservedClear st = true) :
    statusReservedClear (latchStatus n st) = true :=
  statusReservedClear_orIf _ (by decide) <| statusReservedClear_orIf _ (by decide) <| statusReservedClear_orIf _ (by decide) h

/-! ## What a register read can be -/

theorem Prog.EndsFrom.imp {P : Block → Prop} {Q R : α → Prop} {p : Prog α} (hp : p.EndsFrom P Q) (h : ∀ a, Q a → R a) :
    p.EndsFrom P R := by
  induction p with
  | ret a => exact h a hp
  | micro f k ih => exact fun b hb => ih _ (hp b hb)
  | need why k ih => exact ih hp

/-- Each bit that is read was the bit of the register in one of the blocks on the way. -/
theorem ends_readFrom {P : Block → Prop} (r : Reg w) (n k : Nat) :
    (readFrom r n k).EndsFrom P fun v => ∀ i, v.testBit i = true → ∃ b, P b ∧ (r.get b).getLsbD (8 * k + i) = true := by
  induction n generalizing k with
  | zero => exact fun i h => absurd h (by simp)
  | succ n ih =>
    refine fun b hb => (ih (k + 1)).bind fun hi hhi i h => ?_
    have hlt : (byteOf (r.get b) k).toNat < 2 ^ 8 := (byteOf (r.get b) k).isLt
    rw [show (byteOf (r.get b) k).toNat + 256 * hi = 2 ^ 8 * hi + (byteOf (r.get b) k).toNat by omega,
      Nat.testBit_two_pow_mul_add hi hlt] at h
    split at h
    · next hi8 =>
      refine ⟨b, hb, ?_⟩
      rw [byteOf, BitVec.toNat_ofNat, Nat.testBit_mod_two_pow, Nat.testBit_shiftRight] at h
      simpa [BitVec.getLsbD, hi8] using h
    · next hi8 =>
      obtain ⟨b', hb', hbit⟩ := hhi _ h
      exact ⟨b', hb', by rwa [show 8 * k + i = 8 * (k + 1) + (i - 8) by omega]⟩

theorem ends_readReg {P : Block → Prop} (r : Reg w) :
    (readReg r).EndsFrom P fun v => ∀ i, v.getLsbD i = true → ∃ b, P b ∧ (r.get b).getLsbD i = true :=
  (ends_readFrom r _ 0).bind fun v hv i h => by
    simp only [BitVec.getLsbD_ofNat, Bool.and_eq_true] at h
    simpa using hv i h.2

/-- A register of one byte is read at once. -/
theorem ends_readReg_byte {P : Block → Prop} (r : Reg 8) : (readReg r).EndsFrom P fun v => ∃ b, P b ∧ v = r.get b :=
  fun b hb => ⟨b, hb, BitVec.eq_of_toNat_eq (by simp [byteOf])⟩

/-! ## Changes that nobody minds -/

/-- A good block under the configuration `c`. -/
def Block.GoodUnder (c : Config) (b : Block) : Prop := b.Inv ∧ b.cfg = c

/-- A change of the block that leaves configuration and waypoint index alone and a good block good. -/
structure Mild (b b' : Block) : Prop where
  cfg : b'.cfg = b.cfg
  wpIndex : b'.record.wpIndex = b.record.wpIndex
  inv : b.Inv → b'.Inv

/-- A mild change that leaves the phase alone too. -/
structure Quiet (b b' : Block) : Prop extends Mild b b' where
  phase : b'.phase = b.phase

/-- The registers of which the invariant speaks. -/
def Block.guarded (b : Block) :=
  (b.cfg, b.mem, b.record.guardPrefix, b.record.guardSuffix, b.record.status, b.phase, b.record.wpIndex, b.record.encValid,
    b.sch.count, b.frm.slots, b.frm.cur, b.frm.w, b.steer, b.throttle, b.sto.lead.length, b.sto.csd.length, b.irq)

/-- A change of other registers is quiet. -/
theorem quiet_of_guarded {b b' : Block} (h : b'.guarded = b.guarded) : Quiet b b' := by
  simp only [Block.guarded, Prod.mk.injEq] at h
  obtain ⟨hcfg, hmem, hpre, hsuf, hst, hph, hwp, hval, hcnt, hslots, hcur, hw, hsteer, hthr, hlead, hcsd, hirq⟩ := h
  refine ⟨⟨hcfg, hwp, fun hb => ?_⟩, hph⟩
  exact {
    cfg := by rw [hcfg]; exact hb.cfg
    mem := by rw [hmem]; exact hb.mem
    prefixGuard := by rw [hpre, hcfg]; exact hb.prefixGuard
    suffixGuard := by rw [hsuf, hcfg]; exact hb.suffixGuard
    status := by rw [hst]; exact hb.status
    phase := by rw [hph]; exact hb.phase
    waypoint := by rw [hwp, hcfg]; exact hb.waypoint
    valid := by rw [hval]; exact hb.valid
    count := by rw [hcnt, hcfg]; exact hb.count
    framer := by rw [framerOk, hslots, hcur, hw, hcfg]; exact hb.framer
    steerPulse := by rw [hsteer]; exact hb.steerPulse
    throttlePulse := by rw [hthr]; exact hb.throttlePulse
    lead := hlead.trans hb.lead
    csd := hcsd.trans hb.csd
    events := by rw [hirq]; exact hb.events }

theorem Quiet.refl (b : Block) : Quiet b b := quiet_of_guarded rfl

theorem Quiet.trans {b b' b'' : Block} (h : Quiet b b') (h' : Quiet b' b'') : Quiet b b'' where
  cfg := h'.cfg.trans h.cfg
  wpIndex := h'.wpIndex.trans h.wpIndex
  inv hb := h'.inv (h.inv hb)
  phase := h'.phase.trans h.phase

theorem Mild.good {c : Config} {b b' : Block} (h : Mild b b') (hb : b.GoodUnder c) : b'.GoodUnder c :=
  ⟨h.inv hb.1, h.cfg.trans hb.2⟩

theorem quiet_spiXchg (v : Byte) (b : Block) : Quiet b (spiXchg v b).1 := quiet_of_guarded rfl

theorem quiet_clearLatches (b : Block) : Quiet b (clearLatches b) := quiet_of_guarded rfl

theorem quiet_storeRaw (i k : Nat) (v : Byte) (b : Block) : Quiet b (storeRaw i k v b) :=
  ⟨⟨rfl, rfl, fun h => { h with mem := wf_memWrite _ v h.mem }⟩, rfl⟩

/-- A `READY` slot is not the claimed one, so it can be freed. -/
theorem framerOk_setSlot_free {i : Nat} {b : Block} (h : framerOk b) (hr : b.frm.slots[i]? = some .ready) :
    framerOk (setSlot i .free b) := by
  obtain ⟨hlen, hcur, hw⟩ := h
  refine ⟨by simpa using hlen, fun j => Iff.trans ?_ (hcur j), hw⟩
  rw [setSlot_frm, List.getElem?_set]
  split
  · next hij =>
    subst hij
    simp [hr]
  · exact Iff.rfl

theorem quiet_freeReady (i : Nat) (b : Block) : Quiet b (freeReady i b) := by
  unfold freeReady
  split
  · next hr =>
    have hready : b.frm.slots[i]? = some .ready := by
      by_contra hc
      simp [readyBit, hc] at hr
    exact ⟨⟨rfl, rfl, fun h => { h with framer := framerOk_setSlot_free h.framer hready }⟩, rfl⟩
  · exact .refl b

theorem quiet_setPulse (ch : Channel) {p : Pulse} (b : Block) (hp : b.Inv → p.out = p.run) : Quiet b (setPulse ch p b) := by
  cases ch with
  | steering => exact ⟨⟨rfl, rfl, fun h => { h with steerPulse := hp h }⟩, rfl⟩
  | throttle => exact ⟨⟨rfl, rfl, fun h => { h with throttlePulse := hp h }⟩, rfl⟩

theorem quiet_pulseStart (ch : Channel) (b : Block) : Quiet b (pulseStart ch b) := quiet_setPulse ch b fun _ => rfl

theorem quiet_setLeadByte (i : Nat) (v : Byte) (b : Block) : Quiet b (setLeadByte i v b) :=
  ⟨⟨rfl, rfl, fun h => { h with lead := by simpa using h.lead }⟩, rfl⟩

theorem quiet_setCsdByte (i : Nat) (v : Byte) (b : Block) : Quiet b (setCsdByte i v b) :=
  ⟨⟨rfl, rfl, fun h => { h with csd := by simpa using h.csd }⟩, rfl⟩

theorem quiet_forgetLead (b : Block) : Quiet b (forgetLead b) :=
  ⟨⟨rfl, rfl, fun h => { h with lead := by simp [freshBytes] }⟩, rfl⟩

theorem quiet_forgetCsd (b : Block) : Quiet b (forgetCsd b) :=
  ⟨⟨rfl, rfl, fun h => { h with csd := by simp [freshBytes] }⟩, rfl⟩

/-! ## Programs that do not lower the waypoint index -/

/-- No micro-step lowers `wp_index`, where the program alone writes it under the configuration `c`, and the program ends with a
value and an index that `Q` accepts. -/
def Prog.ClimbsTo (c : Config) (Q : α → Byte → Prop) : Prog α → Byte → Prop
  | .ret a, i => Q a i
  | .micro f k, i => ∀ b, b.cfg = c → b.record.wpIndex = i →
      (f b).1.cfg = c ∧ i.toNat ≤ (f b).1.record.wpIndex.toNat ∧ (k (f b).2).ClimbsTo c Q (f b).1.record.wpIndex
  | .need _ k, i => k.ClimbsTo c Q i

theorem Prog.ClimbsTo.bind {c : Config} {Q : α → Byte → Prop} {R : β → Byte → Prop} {p : Prog α} {q : α → Prog β}
    {i : Byte} (hp : p.ClimbsTo c Q i) (hq : ∀ a j, Q a j → (q a).ClimbsTo c R j) : (p.bind q).ClimbsTo c R i := by
  induction p generalizing i with
  | ret a => exact hq a i hp
  | micro f k ih =>
    intro b hc hi
    obtain ⟨hcfg, hle, hrest⟩ := hp b hc hi
    exact ⟨hcfg, hle, ih _ hrest⟩
  | need why k ih => exact ih hp

theorem Prog.ClimbsTo.imp {c : Config} {Q R : α → Byte → Prop} {p : Prog α} {i : Byte} (hp : p.ClimbsTo c Q i)
    (h : ∀ a j, Q a j → R a j) : p.ClimbsTo c R i := by
  induction p generalizing i with
  | ret a => exact h a i hp
  | micro f k ih => exact fun b hc hi => ⟨(hp b hc hi).1, (hp b hc hi).2.1, ih _ (hp b hc hi).2.2⟩
  | need why k ih => exact ih hp

/-- A program that leaves configuration and index alone. -/
theorem Prog.Keeps.climbsTo {c : Config} {p : Prog α} {i : Byte} (hp : p.Keeps fun b => b.cfg = c ∧ b.record.wpIndex = i) :
    p.ClimbsTo c (fun _ j => j = i) i := by
  induction p with
  | ret a => exact rfl
  | micro f k ih =>
    intro b hc hi
    obtain ⟨hcfg, hw⟩ := hp.1 b ⟨hc, hi⟩
    exact ⟨hcfg, by rw [hw], by rw [hw]; exact ih _ (hp.2 _)⟩
  | need why k ih => exact ih hp

/-- The statement's `Climbs` asks for less. -/
theorem Prog.ClimbsTo.climbs {c : Config} {Q : α → Byte → Prop} {p : Prog α} {i : Byte} (hp : p.ClimbsTo c Q i) :
    p.Climbs c i := by
  induction p generalizing i with
  | ret a => exact True.intro
  | micro f k ih => exact fun b hc hi => ⟨(hp b hc hi).2.1, ih _ (hp b hc hi).2.2⟩
  | need why k ih => exact ih hp

/-- The whole program does not lower the index. -/
theorem Prog.ClimbsTo.run {c : Config} {Q : α → Byte → Prop} {p : Prog α} {b : Block} (hp : p.ClimbsTo c Q b.record.wpIndex)
    (hc : b.cfg = c) : b.record.wpIndex.toNat ≤ (p.run b).2.record.wpIndex.toNat := by
  induction p generalizing b with
  | ret a => exact Nat.le_refl _
  | micro f k ih =>
    obtain ⟨hcfg, hle, hrest⟩ := hp b hc rfl
    exact hle.trans (ih _ hrest hcfg)
  | need why k ih => exact ih hp hc

/-- One more micro-step does not lower the index, and the rest has read it as it stands. -/
theorem Prog.Climbs.step {c : Config} {p : Prog α} {b : Block} {r : Block × Nat} (hp : p.Climbs c b.record.wpIndex) (hc : b.cfg = c)
    (hr : p.first b = some r) :
    b.record.wpIndex.toNat ≤ r.1.record.wpIndex.toNat ∧ (p.follow [r.2]).Climbs c r.1.record.wpIndex := by
  induction p with
  | ret a => exact absurd hr (by simp [Prog.first])
  | micro f k =>
    rw [Prog.first, Option.some.injEq] at hr
    rw [Prog.follow_micro, Prog.follow_nil]
    exact hr ▸ hp b hc rfl
  | need why k ih => exact ih hp hr

/-- The index read is the one that stands. -/
theorem climbsTo_read_wpIndex (c : Config) (i : Byte) : (readReg wpIndexReg).ClimbsTo c (fun a j => a = i ∧ j = i) i := by
  intro b hc hi
  refine ⟨hc, by rw [hi], BitVec.eq_of_toNat_eq ?_, hi⟩
  simp [byteOf, hi]

/-! ## Whole runs on good blocks -/

theorem Prog.KeepsFrom.run {P : Block → Prop} {p : Prog α} (hp : p.KeepsFrom P) {b : Block} (hb : P b) : P (p.run b).2 := by
  induction p generalizing b with
  | ret a => exact hb
  | micro f k ih => exact ih _ (hp b hb).2 (hp b hb).1
  | need why k ih => exact ih hp.2 hb

/-- On good blocks a program can be refused but does not fault. -/
theorem Prog.KeepsFrom.attempt {P : Block → Prop} {p : Prog α} (hp : p.KeepsFrom P) {b : Block} (hb : P b) (f : Fault) :
    p.attempt b ≠ .error (.fault f) := by
  induction p generalizing b with
  | ret a => simp
  | micro f k ih => exact ih _ (hp b hb).2 (hp b hb).1
  | need why k ih =>
    rw [Prog.attempt]
    split
    · next e he => exact fun h => hp.1 b hb f (he.trans (congrArg some (Except.error.inj h)))
    · exact ih hp.2 hb

theorem Prog.KeepsFrom.blocked {P : Block → Prop} {p : Prog α} (hp : p.KeepsFrom P) {b : Block} (hb : P b) (f : Fault) :
    p.blocked b ≠ some (.fault f) := by
  induction p with
  | ret a => simp [Prog.blocked]
  | micro f k => simp [Prog.blocked]
  | need why k ih =>
    rw [Prog.blocked]
    split
    · next e he => exact fun h => hp.1 b hb f (he.trans h)
    · exact ih hp.2

/-! ## Calm programs -/

/-- A program that leads from good blocks under `c` to good ones without a fault, does not lower the waypoint index, and keeps it
within the table. -/
structure Prog.Tame (c : Config) (p : Prog α) : Prop where
  keeps : p.KeepsFrom (Block.GoodUnder c)
  climbs : c.tableLen ≤ 254 → ∀ i : Byte, i.toNat ≤ c.tableLen → p.ClimbsTo c (fun _ j => j.toNat ≤ c.tableLen) i

/-- A tame program that leaves the phase alone. -/
structure Prog.Calm (c : Config) (p : Prog α) : Prop extends p.Tame c where
  phase : ∀ ph, p.Keeps fun b => b.phase = ph

variable {c : Config}

theorem Prog.Tame.bind {p : Prog α} {q : α → Prog β} (hp : p.Tame c) (hq : ∀ a, (q a).Tame c) : (p.bind q).Tame c where
  keeps := hp.keeps.bind fun a => (hq a).keeps
  climbs hT i hi := (hp.climbs hT i hi).bind fun a j hj => (hq a).climbs hT j hj

theorem Prog.Calm.ret (a : α) : (Prog.ret a).Calm c := ⟨⟨True.intro, fun _ _ h => h⟩, fun _ => True.intro⟩

theorem Prog.Calm.bind {p : Prog α} {q : α → Prog β} (hp : p.Calm c) (hq : ∀ a, (q a).Calm c) : (p.bind q).Calm c where
  toTame := hp.toTame.bind fun a => (hq a).toTame
  phase ph := (hp.phase ph).bind fun a => (hq a).phase ph

theorem Prog.Calm.andThen {p : Prog α} {q : Prog β} (hp : p.Calm c) (hq : q.Calm c) : (p.andThen q).Calm c := hp.bind fun _ => hq

theorem Prog.Calm.micro {f : Block → Block × Nat} {k : Nat → Prog α} (hf : ∀ b, Quiet b (f b).1) (hk : ∀ n, (k n).Calm c) :
    (Prog.micro f k).Calm c where
  keeps := fun b hb => ⟨(hf b).good hb, (hk _).keeps⟩
  climbs hT i hi := fun b hc hbi => by
    have hw : (f b).1.record.wpIndex = i := (hf b).wpIndex.trans hbi
    exact ⟨(hf b).cfg.trans hc, by rw [hw], by rw [hw]; exact (hk _).climbs hT i hi⟩
  phase ph := ⟨fun b hb => (hf b).phase.trans hb, fun n => (hk n).phase ph⟩

theorem Prog.Calm.act {f : Block → Block} (hf : ∀ b, Quiet b (f b)) : (Prog.act f).Calm c := .micro hf fun _ => .ret _

/-- A micro-step that writes other registers than those of the invariant. -/
theorem Prog.Calm.write {f : Block → Block} (hf : ∀ b, (f b).guarded = b.guarded) : (Prog.act f).Calm c :=
  .act fun b => quiet_of_guarded (hf b)

theorem Prog.Calm.ask (g : Block → Nat) : (Prog.ask g).Calm c := .micro .refl fun _ => .ret _

theorem Prog.Calm.require {why : Block → Option Stop} (h : ∀ b f, why b ≠ some (.fault f)) : (Prog.require why).Calm c where
  keeps := .require fun b _ => h b
  climbs _ _ hi := hi
  phase _ := .require _

theorem Prog.Calm.forEach {body : Nat → Prog Unit} (h : ∀ i, (body i).Calm c) (is : List Nat) : (Prog.forEach body is).Calm c := by
  induction is with
  | nil => exact .ret _
  | cons i is ih => exact (h i).andThen ih

theorem Prog.Calm.askBytes (g : Nat → Block → Byte) (n k : Nat) : (Prog.askBytes g n k).Calm c := by
  induction n generalizing k with
  | zero => exact .ret _
  | succ n ih => exact (Prog.Calm.ask _).bind fun _ => (ih _).bind fun _ => .ret _

theorem calm_readFrom (r : Reg w) (n k : Nat) : (readFrom r n k).Calm c := by
  induction n generalizing k with
  | zero => exact .ret _
  | succ n ih => exact (Prog.Calm.ask _).bind fun _ => (ih _).bind fun _ => .ret _

theorem calm_readReg (r : Reg w) : (readReg r).Calm c := (calm_readFrom r _ _).bind fun _ => .ret _

/-- A register is written calmly when each of its bytes is. -/
theorem calm_writeReg_bytes {r : Reg w} {v : BitVec w} (h : ∀ k b, Quiet b (r.set (mergeByte k v (r.get b)) b)) :
    (writeReg r v).Calm c := by
  have hf : ∀ n k, (writeFrom r v n k).Calm c := by
    intro n
    induction n with
    | zero => exact fun _ => .ret _
    | succ n ih => exact fun k => (Prog.Calm.act (h k)).andThen (ih _)
  exact hf _ _

/-- A register apart from those of the invariant. -/
def Reg.Free (r : Reg w) : Prop := ∀ x b, (r.set x b).guarded = b.guarded

theorem calm_writeReg {r : Reg w} {v : BitVec w} (h : r.Free) : (writeReg r v).Calm c :=
  calm_writeReg_bytes fun _ b => quiet_of_guarded (h _ b)

theorem calm_modifyReg {r : Reg w} {f : BitVec w → BitVec w} (h : r.Free) : (modifyReg r f).Calm c :=
  (calm_readReg r).bind fun _ => calm_writeReg h

theorem calm_copyReg {src dst : Reg w} (h : dst.Free) : (copyReg src dst).Calm c := (calm_readReg src).bind fun _ => calm_writeReg h

theorem calm_returns (r : Result) : (returns r).Calm c := .write fun _ => rfl

/-! ### The status word -/

/-- A status word with the reserved bits clear is written calmly. -/
theorem calm_writeStatus {v : U32} (hv : statusReservedClear v = true) : (writeReg statusReg v).Calm c :=
  calm_writeReg_bytes fun _ _ => ⟨⟨rfl, rfl, fun h => { h with status := statusReservedClear_mergeByte hv h.status }⟩, rfl⟩

/-- On good blocks the status word is read with its reserved bits clear. -/
theorem ends_readStatus : (readReg statusReg).EndsFrom (Block.GoodUnder c) fun v => statusReservedClear v = true :=
  (ends_readReg statusReg).imp fun v hv => statusReservedClear_iff.mpr fun i hi => by
    by_contra hbit
    obtain ⟨b, hb, hset⟩ := hv i (by simpa using hbit)
    exact absurd (statusReservedClear_iff.mp hb.1.status i hi) (by simpa using hset)

/-- A change of the status word that sets no reserved bit is calm. -/
theorem calm_modifyStatus {f : U32 → U32} (hf : ∀ v, statusReservedClear v = true → statusReservedClear (f v) = true) :
    (modifyReg statusReg f).Calm c where
  keeps := (calm_readReg _).keeps.bindEnds ends_readStatus fun v hv => (calm_writeStatus (hf v hv)).keeps
  climbs _ _ hi := (keeps_modifyReg fun _ _ h => h).climbsTo.imp fun _ _ hj => hj ▸ hi
  phase _ := keeps_modifyReg fun _ _ h => h

theorem calm_orStatusProg {n : Nat} (hn : n < 9) : (orStatusProg n).Calm c := calm_modifyStatus fun _ => statusReservedClear_or hn

/-! ### The waypoint index -/

/-- A register of one byte is written at once. -/
theorem writeReg_byte (r : Reg 8) (v : Byte) : writeReg r v = Prog.act (r.set v) := by
  have hm : ∀ old : Byte, mergeByte 0 v old = v := fun old => BitVec.eq_of_getLsbD_eq fun i hi => by
    rw [mergeByte_getLsbD, if_pos ⟨by omega, by omega⟩]
  change (Prog.act fun b => r.set (mergeByte 0 v (r.get b)) b).andThen (.ret ()) = _
  simp only [hm]
  rfl

/-- An index within the table selects a waypoint, so looking it up does not fault. -/
theorem waypointStop_eq_none {i : Byte} (h : i.toNat ≤ c.tableLen) : waypointStop c i = none := by
  obtain ⟨w, hw⟩ := Option.isSome_iff_exists.mp (waypointAt_isSome.mpr h)
  rw [waypointStop, hw]

theorem calm_withWaypoint {use : Waypoint → Prog Unit} (h : ∀ w, (use w).Calm c) : (withWaypoint c use).Calm c := by
  have hrest : ∀ i : Byte, (match waypointAt c i.toNat with | some w => use w | none => .ret ()).Calm c := by
    intro i
    split
    · exact h _
    · exact .ret _
  refine ⟨⟨?_, fun hT i hi => ?_⟩, fun ph => ?_⟩
  · refine (calm_readReg _).keeps.bindEnds (ends_readReg_byte wpIndexReg) fun i ⟨b, hb, hi⟩ =>
      (Prog.KeepsFrom.require fun _ _ f => ?_).andThen (hrest i).keeps
    have hle : i.toNat ≤ c.tableLen := by
      rw [hi, ← hb.2]
      exact hb.1.waypoint
    simp [waypointStop_eq_none hle]
  · exact ((calm_readReg _).climbs hT i hi).bind fun a j hj => (hrest a).climbs hT j hj
  · exact (keeps_readReg _).bind fun a => (hrest a).phase ph

/-- The next index is within the table, and not below one that is. -/
theorem nextIndex_le (i : Byte) : (BitVec.ofNat 8 (min (i.toNat + 1) c.tableLen)).toNat ≤ c.tableLen :=
  (Nat.mod_le _ _).trans (min_le_right _ _)

theorem le_nextIndex (hT : c.tableLen ≤ 254) {i : Byte} (hi : i.toNat ≤ c.tableLen) :
    i.toNat ≤ (BitVec.ofNat 8 (min (i.toNat + 1) c.tableLen)).toNat := by
  rw [BitVec.toNat_ofNat]
  omega

theorem calm_nextWaypoint : (nextWaypoint c).Calm c where
  keeps := (calm_readReg _).keeps.bind fun i => by
    rw [writeReg_byte]
    exact .act fun b hb => ⟨{ hb.1 with waypoint := hb.2 ▸ nextIndex_le i }, hb.2⟩
  climbs hT i hi := (climbsTo_read_wpIndex c i).bind fun a j ⟨ha, hj⟩ => by
    subst ha hj
    rw [writeReg_byte]
    exact fun b hc hb => ⟨hc, le_nextIndex hT hi, nextIndex_le _⟩
  phase _ := keeps_modifyReg fun _ _ h => h

/-! ## Programs that end with a phase -/

/-- Every micro-step leaves the phase alone, but for the last one, which may write the phase `q`. -/
def Prog.PhaseAtEnd (q : BitVec 4) : Prog α → Prop
  | .ret _ => True
  | .micro f k => (∀ b, (f b).1.phase = b.phase ∨ ((f b).1.phase = q ∧ (k (f b).2).isDone = true)) ∧ ∀ n, (k n).PhaseAtEnd q
  | .need _ k => k.PhaseAtEnd q

theorem Prog.PhaseAtEnd.bind {q : BitVec 4} {p : Prog α} {r : α → Prog β} (hp : ∀ ph, p.Keeps fun b => b.phase = ph)
    (hr : ∀ a, (r a).PhaseAtEnd q) : (p.bind r).PhaseAtEnd q := by
  induction p with
  | ret a => exact hr a
  | micro f k ih => exact ⟨fun b => .inl ((hp b.phase).1 b rfl), fun n => ih n fun ph => (hp ph).2 n⟩
  | need why k ih => exact ih hp

theorem Prog.PhaseAtEnd.follow {q : BitVec 4} {p : Prog α} (hp : p.PhaseAtEnd q) (path : List Nat) :
    (p.follow path).PhaseAtEnd q := by
  induction p generalizing path with
  | ret a => simp [Prog.PhaseAtEnd]
  | micro f k ih =>
    cases path with
    | nil => exact hp
    | cons n path => exact ih n (hp.2 n) path
  | need why k ih =>
    cases path with
    | nil => exact hp
    | cons n path => exact ih hp (n :: path)

/-- After the first micro-step left the phase is as before, or the new one and nothing is left. -/
theorem Prog.PhaseAtEnd.first {q : BitVec 4} {p : Prog α} (hp : p.PhaseAtEnd q) {b : Block} {r : Block × Nat}
    (hr : p.first b = some r) : r.1.phase = b.phase ∨ (r.1.phase = q ∧ (p.follow [r.2]).isDone = true) := by
  induction p with
  | ret a => exact absurd hr (by simp [Prog.first])
  | micro f k =>
    rw [Prog.first, Option.some.injEq] at hr
    rw [Prog.follow_micro, Prog.follow_nil]
    exact hr ▸ hp.1 b
  | need why k ih => exact ih hp hr

/-- A tame program that leaves the phase alone but for its last micro-step, which writes the phase `q`. -/
structure Prog.CalmTo (c : Config) (q : BitVec 4) (p : Prog Unit) : Prop extends p.Tame c where
  phase : p.PhaseAtEnd q

theorem Prog.Calm.bindTo {q : BitVec 4} {p : Prog α} {r : α → Prog Unit} (hp : p.Calm c) (hr : ∀ a, (r a).CalmTo c q) :
    (p.bind r).CalmTo c q where
  toTame := hp.toTame.bind fun a => (hr a).toTame
  phase := .bind hp.phase fun a => (hr a).phase

theorem Prog.CalmTo.andThen {q : BitVec 4} {p : Prog α} {r : Prog Unit} (hp : p.Calm c) (hr : r.CalmTo c q) :
    (p.andThen r).CalmTo c q := hp.bindTo fun _ => hr

theorem calmTo_endPhase {q : BitVec 4} (hq : q.toNat ≤ 9) : (endPhase q).CalmTo c q where
  keeps := .act fun _ hb => ⟨{ hb.1 with phase := hq }, hb.2⟩
  climbs _ _ hi := fun _ hc hb => ⟨hc, by rw [← hb]; rfl, by rw [← hb] at hi; exact hi⟩
  phase := ⟨fun _ => .inr ⟨rfl, rfl⟩, fun _ => True.intro⟩

/-! ## Framer and parser -/

theorem calm_parseGga (line : List Byte) : (parseGga c line).Calm c := by
  unfold parseGga
  split
  · exact .andThen (calm_writeReg fun _ _ => rfl) <| .andThen (calm_writeReg fun _ _ => rfl) <|
      .andThen (calm_writeReg fun _ _ => rfl) <| .andThen (calm_writeReg fun _ _ => rfl) <|
      .andThen (calm_writeReg fun _ _ => rfl) <| .andThen (calm_writeReg fun _ _ => rfl) <| calm_orStatusProg (by decide)
  · exact .ret _

theorem calm_parseRmc (line : List Byte) : (parseRmc c line).Calm c := by
  unfold parseRmc
  split
  · exact .andThen (calm_writeReg fun _ _ => rfl) <| .andThen (calm_writeReg fun _ _ => rfl) <|
      .andThen (calm_writeReg fun _ _ => rfl) <| .andThen (calm_writeReg fun _ _ => rfl) <| calm_orStatusProg (by decide)
  · exact .ret _

theorem calm_parseLine (line : List Byte) : (parseLine c line).Calm c := by
  unfold parseLine
  split
  · exact calm_parseGga line
  · split
    · exact calm_parseRmc line
    · exact .ret _

theorem calm_copyRaw (i : Nat) : (copyRaw c i).Calm c :=
  .forEach (fun _ => (Prog.Calm.ask _).bind fun _ => .act (quiet_storeRaw _ _ _)) _

theorem calm_drainSlot (i : Nat) : (drainSlot c i).Calm c := by
  refine .andThen ?_ <| (Prog.Calm.askBytes _ _ _).bind fun line => .andThen ?_ (.act (quiet_freeReady i))
  · split
    · exact calm_copyRaw i
    · exact .ret _
  · split
    · exact calm_parseLine line
    · exact calm_orStatusProg (by decide)

theorem calm_drainTurn (i : Nat) : (drainTurn c i).Calm c := by
  refine (Prog.Calm.ask _).bind fun r => ?_
  split
  · exact calm_drainSlot i
  · exact .ret _

theorem calmTo_frmDrainProg : (frmDrainProg c).CalmTo c 2#4 :=
  (Prog.Calm.micro quiet_clearLatches fun _ => .ret _).bindTo fun n =>
    .andThen (calm_modifyStatus fun _ => statusReservedClear_latchStatus n) <|
    .andThen (.forEach calm_drainTurn _) (calmTo_endPhase (by decide))

/-! ## Encoder and estimator -/

theorem calm_writeEncValid {v : Byte} (hv : v.toNat ≤ 1) : (writeReg encValidReg v).Calm c := by
  rw [writeReg_byte]
  exact .act fun _ => ⟨⟨rfl, rfl, fun h => { h with valid := hv }⟩, rfl⟩

theorem calmTo_drainCells (j k : Fin 2) : (drainCells j k).CalmTo c 4#4 := by
  refine .andThen (calm_writeReg fun _ _ => rfl) <| .andThen (.write fun _ => rfl) <| .andThen (.write fun _ => rfl) <|
    .andThen (calm_copyReg fun _ _ => rfl) <| (Prog.Calm.ask _).bindTo fun _ => .andThen (calm_writeEncValid ?_) <|
    (Prog.Calm.ask _).bindTo fun e => .andThen ?_ (calmTo_endPhase (by decide))
  · split <;> decide
  · split
    · exact calm_orStatusProg (by decide)
    · exact .ret _

theorem calmTo_encDrainProg : encDrainProg.CalmTo c 4#4 := (Prog.Calm.ask _).bindTo fun _ => calmTo_drainCells _ _

theorem calm_integrate (along : F32 → F32) {coord : Reg 32} (d : F32) (h : coord.Free) :
    (integrate along coord d).Calm c :=
  (calm_readReg _).bind fun _ => (calm_readReg _).bind fun _ => calm_writeReg h

theorem calmTo_estUpdateProg : (estUpdateProg c).CalmTo c 5#4 := by
  refine .andThen (calm_copyReg fun _ _ => rfl) <| (calm_readReg _).bindTo fun st => .andThen ?_ (calmTo_endPhase (by decide))
  split
  · exact .andThen (calm_copyReg fun _ _ => rfl) (calm_copyReg fun _ _ => rfl)
  · refine (calm_readReg _).bind fun v => ?_
    split
    · exact (calm_readReg _).bind fun _ => (calm_integrate _ _ fun _ _ => rfl).andThen (calm_integrate _ _ fun _ _ => rfl)
    · exact .ret _

/-! ## Guidance -/

theorem calm_advanceProg (fuel : Nat) : (advanceProg c fuel).Calm c := by
  induction fuel with
  | zero => exact .ret _
  | succ fuel ih =>
    refine calm_withWaypoint fun w => (calm_readReg _).bind fun px => (calm_readReg _).bind fun py => ?_
    split
    · exact calm_nextWaypoint.andThen ih
    · exact .ret _

theorem calm_aimProg : (aimProg c).Calm c :=
  (calm_readReg _).bind fun _ => (calm_readReg _).bind fun _ => (calm_readReg _).bind fun _ =>
    calm_withWaypoint fun _ => calm_writeReg fun _ _ => rfl

theorem calmTo_gdeUpdateProg : (gdeUpdateProg c).CalmTo c 6#4 :=
  .andThen (calm_advanceProg _) <| .andThen calm_aimProg (calmTo_endPhase (by decide))

/-! ## Actuation -/

theorem calm_caseDrive {arm : DriveState → Prog Unit} (h : ∀ d, (arm d).Calm c) : (caseDrive arm).Calm c := by
  refine (Prog.Calm.ask _).bind fun n => ?_
  split
  · exact h _
  · split
    · exact h _
    · split <;> exact h _

theorem calm_driveForward (us : U16) : (driveForward us).Calm c :=
  .andThen (calm_writeReg fun _ _ => rfl) <| .andThen (.write fun _ => rfl) (calm_writeReg fun _ _ => rfl)

theorem calm_rampToNeutral (step : Nat) : (rampToNeutral c step).Calm c := by
  refine (calm_readReg _).bind fun t => ?_
  split
  · exact calm_writeReg fun _ _ => rfl
  · exact .andThen (calm_writeReg fun _ _ => rfl) (.write fun _ => rfl)

theorem calm_driveStop : (driveStop c).Calm c := by
  refine calm_caseDrive fun st => ?_
  cases st with
  | neutral => exact calm_writeReg fun _ _ => rfl
  | preReverse => exact .andThen (calm_writeReg fun _ _ => rfl) <| .andThen (.write fun _ => rfl) (calm_writeReg fun _ _ => rfl)
  | forward => exact calm_rampToNeutral _
  | reverse => exact calm_rampToNeutral _

theorem calm_driveReverse (target : U16) : (driveReverse c target).Calm c := by
  refine calm_caseDrive fun st => ?_
  cases st with
  | reverse => exact calm_modifyReg fun _ _ => rfl
  | forward => exact calm_rampToNeutral _
  | neutral => exact .andThen (.write fun _ => rfl) <| .andThen (calm_writeReg fun _ _ => rfl) (calm_writeReg fun _ _ => rfl)
  | preReverse =>
    refine .andThen (calm_modifyReg fun _ _ => rfl) <| (calm_readReg _).bind fun h => ?_
    split
    · exact .write fun _ => rfl
    · exact .ret _

theorem calm_driveOf {cmd : DriveCmd} {p : Prog Unit} (h : driveOf c cmd = some p) : p.Calm c := by
  cases cmd with
  | stop => exact Option.some.inj h ▸ calm_driveStop
  | fwd k =>
    obtain ⟨us, -, rfl⟩ := Option.map_eq_some_iff.mp h
    exact calm_driveForward us
  | rev k =>
    obtain ⟨us, -, rfl⟩ := Option.map_eq_some_iff.mp h
    exact calm_driveReverse us

theorem calm_driveWaypoint (w : Waypoint) : (driveWaypoint c w).Calm c := by
  unfold driveWaypoint
  split
  · next p h => exact calm_driveOf h
  · exact .require fun _ _ => by simp

theorem calm_steerTo (angle : F32) : (steerTo c angle).Calm c := calm_writeReg fun _ _ => rfl

theorem calmTo_actUpdateProg : (actUpdateProg c).CalmTo c 7#4 :=
  (calm_readReg _).bindTo fun _ => .andThen (calm_steerTo _) <| .andThen (calm_withWaypoint calm_driveWaypoint) <|
    .andThen (.act (quiet_pulseStart _)) <| .andThen (.act (quiet_pulseStart _)) (calmTo_endPhase (by decide))

/-- The scheduler's counter is written calmly: the register has as many bits as the configuration says. -/
theorem calm_writeCount (v : BitVec c.schedBits) : (writeReg (sCountReg c.schedBits) v).Calm c where
  keeps := (keeps_writeReg (fun x _ hb => ⟨{ hb.1 with count := hb.2 ▸ x.isLt }, hb.2⟩) v).keepsFrom (total_writeReg _ _)
  climbs _ _ hi := (keeps_writeReg (fun _ _ h => h) v).climbsTo.imp fun _ _ hj => hj ▸ hi
  phase _ := keeps_writeReg (fun _ _ h => h) v

theorem calm_startupPulse : (startupPulse c).Calm c :=
  (calm_writeCount _).andThen <| .andThen (.write fun _ => rfl) <|
    (Prog.Calm.act (quiet_pulseStart _)).andThen <| .act (quiet_pulseStart _)

theorem calm_actStartupProg : (actStartupProg c).Calm c := by
  refine .andThen (.andThen (calm_writeReg fun _ _ => rfl) <| .andThen (calm_writeReg fun _ _ => rfl) <|
    .andThen (.write fun _ => rfl) (calm_writeReg fun _ _ => rfl)) ?_
  split
  · exact .ret _
  · exact calm_startupPulse

/-! ## Heading -/

theorem calm_hdgBeginProg : hdgBeginProg.Calm c := by
  refine (Prog.Calm.require fun b f => ?_).andThen <| .andThen (.write fun _ => rfl) (.write fun _ => rfl)
  unfold beginContract
  split <;> simp

theorem calm_rearm : rearm.Calm c := .andThen (.write fun _ => rfl) <| .andThen (.write fun _ => rfl) calm_hdgBeginProg

theorem calm_pollDone : pollDone.Calm c :=
  (calm_readReg _).bind fun _ => .andThen (calm_writeReg fun _ _ => rfl) <| .andThen (calm_writeReg fun _ _ => rfl) <|
    (calm_readReg _).bind fun _ => .andThen (calm_writeReg fun _ _ => rfl) <| calm_rearm.andThen (calm_returns _)

theorem calm_pollError : (pollError c).Calm c :=
  .andThen (calm_writeReg fun _ _ => rfl) <| (calm_orStatusProg (by decide)).andThen <| calm_rearm.andThen (calm_returns _)

theorem calm_pollIdle : pollIdle.Calm c := by
  refine (Prog.Calm.ask _).bind fun busy => .andThen ?_ (calm_returns _)
  split
  · exact calm_hdgBeginProg
  · exact .ret _

theorem calmTo_hdgPollProg : (hdgPollProg c).CalmTo c 3#4 := by
  refine (Prog.Calm.ask _).bindTo fun st => .andThen ?_ (calmTo_endPhase (by decide))
  split
  · exact calm_pollDone
  · split
    · exact calm_pollError
    · split
      · exact calm_pollIdle
      · exact calm_returns _

/-! ## Storage -/

theorem calm_xchg (v : Byte) : (xchg v).Calm c := .micro (quiet_spiXchg v) fun _ => .ret _

theorem calm_sendBytes (vs : List Byte) : (sendBytes vs).Calm c := by
  induction vs with
  | nil => exact .ret _
  | cons v vs ih => exact (calm_xchg v).andThen ih

theorem calm_recvBytes (fl : Byte) (n : Nat) : (recvBytes fl n).Calm c := by
  induction n with
  | zero => exact .ret _
  | succ n ih => exact (calm_xchg fl).bind fun _ => ih.bind fun _ => .ret _

theorem calm_answerPoll (fl : Byte) (n : Nat) : (answerPoll fl n).Calm c := by
  induction n with
  | zero => exact .ret _
  | succ n ih =>
    refine (calm_xchg fl).bind fun r => ?_
    split
    · exact ih
    · exact .ret _

theorem calm_tokenPoll (fl : Byte) (n : Nat) : (tokenPoll fl n).Calm c := by
  induction n with
  | zero => exact .ret _
  | succ n ih =>
    refine (calm_xchg fl).bind fun r => ?_
    split
    · exact ih
    · exact .ret _

theorem calm_deselect : deselect.Calm c := .write fun _ => rfl

theorem calm_deselectWith (a : α) : (deselect.andThen (.ret a)).Calm c := calm_deselect.andThen (.ret a)

theorem calm_command (f : CmdFrame) : (command c f).Calm c :=
  .andThen (.write fun _ => rfl) <| (calm_sendBytes _).andThen <| calm_answerPoll _ _

theorem calm_commandAlone (f : CmdFrame) : (commandAlone c f).Calm c := (calm_command f).bind fun _ => calm_deselectWith _

theorem calm_cmdIfcond : (cmdIfcond c).Calm c := by
  refine (calm_command _).bind fun r => ?_
  split
  · exact (calm_recvBytes _ _).bind fun _ => calm_deselectWith _
  · exact calm_deselectWith _

theorem calm_cmdReadocr : (cmdReadocr c).Calm c := by
  refine (calm_command _).bind fun r => ?_
  split
  · exact (calm_recvBytes _ _).bind fun _ => calm_deselectWith _
  · exact calm_deselectWith _

theorem calm_recvInto (fl : Byte) {keep : Nat → Byte → Prog Unit} (hk : ∀ i v, (keep i v).Calm c) (n i : Nat) :
    (recvInto fl keep n i).Calm c := by
  induction n generalizing i with
  | zero => exact .ret _
  | succ n ih => exact (calm_xchg fl).bind fun _ => (hk _ _).andThen (ih _)

theorem calm_readData {keep : Nat → Byte → Prog Unit} (hk : ∀ i v, (keep i v).Calm c) (n : Nat) :
    (readData c keep n).Calm c := by
  refine (calm_tokenPoll _ _).bind fun t => ?_
  split
  · exact (calm_recvInto _ hk _ _).andThen <| (calm_recvBytes _ _).bind fun _ => .ret _
  · exact .ret _

theorem calm_readBlockData {keep : Nat → Byte → Prog Unit} (hk : ∀ i v, (keep i v).Calm c) {forget : Block → Block}
    (hf : ∀ b, Quiet b (forget b)) (n : Nat) (r : Option Byte) : (readBlockData c keep forget n r).Calm c := by
  refine .bind ?_ fun ok => .andThen ?_ (calm_deselectWith _)
  · split
    · exact calm_readData hk n
    · exact .ret _
  · split
    · exact .ret _
    · exact .act hf

theorem calm_keepCsd (i : Nat) (v : Byte) : (keepCsd i v).Calm c := .act (quiet_setCsdByte i v)

theorem calm_keepLead (i : Nat) (v : Byte) : (keepLead i v).Calm c := by
  unfold keepLead
  split
  · exact .act (quiet_setLeadByte i v)
  · exact .ret _

theorem calm_cmdReadcsd : (cmdReadcsd c).Calm c :=
  (calm_command _).bind fun _ => calm_readBlockData calm_keepCsd quiet_forgetCsd _ _

theorem calm_readBlock (addr : U32) : (readBlock c addr).Calm c :=
  (calm_command _).bind fun _ => calm_readBlockData calm_keepLead quiet_forgetLead _ _

theorem calm_probeBlock (a : Nat) : (probeBlock c a).Calm c := by
  refine (calm_readBlock _).bind fun ok => ?_
  split
  · exact (Prog.Calm.askBytes _ _ _).bind fun _ => .ret _
  · exact .ret _

theorem calm_bisect {probe : Nat → Prog (Option Bool)} (hp : ∀ a, (probe a).Calm c) (fuel lo hi : Nat) :
    (bisect probe fuel lo hi).Calm c := by
  induction fuel generalizing lo hi with
  | zero => exact .ret _
  | succ fuel ih =>
    unfold bisect
    split
    · refine (hp _).bind fun r => ?_
      match r with
      | none => exact .ret _
      | some true => exact ih _ _
      | some false => exact ih _ _
    · exact .ret _

theorem calm_searchWith {probe : Nat → Prog (Option Bool)} (hp : ∀ a, (probe a).Calm c) (cap : Nat) :
    (searchWith probe cap).Calm c := by
  refine (hp _).bind fun r => ?_
  match r with
  | none => exact .ret _
  | some false => exact .ret _
  | some true =>
    refine (calm_bisect hp _ _ _).bind fun k => ?_
    cases k <;> exact .ret _

theorem calm_findBlock : (findBlock c).Calm c := by
  refine (calm_readReg _).bind fun cap => (calm_searchWith calm_probeBlock _).bind fun k => ?_
  cases k with
  | none => exact .andThen (.write fun _ => rfl) (.ret _)
  | some k => exact .ret _

theorem calm_opcondLoop (n : Nat) : (opcondLoop c n).Calm c := by
  induction n with
  | zero => exact .ret _
  | succ n ih =>
    refine (calm_commandAlone _).bind fun a => ?_
    split
    · refine (calm_commandAlone _).bind fun r => ?_
      split
      · exact .ret _
      · split
        · exact ih
        · exact .ret _
    · exact .ret _

theorem calm_orFail {step : Prog Bool} {next : Prog Unit} (hs : step.Calm c) (hn : next.Calm c) : (orFail step next).Calm c := by
  refine hs.bind fun ok => ?_
  split
  · exact hn
  · exact calm_deselect

theorem calm_stoInitProg : (stoInitProg c).Calm c := by
  refine .andThen (.write fun _ => rfl) <| .andThen (.write fun _ => rfl) <|
    calm_orFail ((calm_commandAlone _).bind fun _ => .ret _) <| calm_orFail calm_cmdIfcond <|
    calm_orFail (calm_opcondLoop _) <| calm_orFail (calm_cmdReadocr.bind fun _ => .ret _) <|
    .andThen (.write fun _ => rfl) <| calm_orFail calm_cmdReadcsd <|
    .andThen ((Prog.Calm.askBytes _ _ _).bind fun _ => calm_writeReg fun _ _ => rfl) <| calm_findBlock.bind fun k => ?_
  cases k with
  | none => exact calm_deselect
  | some k => exact .andThen (calm_writeReg fun _ _ => rfl) (.write fun _ => rfl)

theorem calm_sendRecord (n i : Nat) : (sendRecord n i).Calm c := by
  induction n generalizing i with
  | zero => exact .ret _
  | succ n ih => exact .andThen (.micro (fun b => quiet_spiXchg (recordByte i b) b) fun _ => .ret _) (ih _)

theorem calm_busyPoll (n : Nat) : (busyPoll c n).Calm c := by
  induction n with
  | zero => exact .ret _
  | succ n ih =>
    refine (calm_xchg _).bind fun r => ?_
    split
    · exact ih
    · exact .ret _

theorem calm_writeData : (writeData c).Calm c := by
  refine (calm_sendBytes _).andThen <| (calm_sendRecord _ _).andThen <| (calm_sendBytes _).andThen <| (calm_xchg _).bind fun r => ?_
  split
  · exact calm_busyPoll _
  · exact .ret _

theorem calm_writeRecord : (writeRecord c).Calm c := by
  refine (calm_readReg _).bind fun a => (calm_command _).bind fun r => .bind ?_ fun ok => ?_
  · split
    · exact calm_writeData
    · exact .ret _
  · split
    · exact calm_deselect.andThen (calm_modifyReg fun _ _ => rfl)
    · exact .andThen (.write fun _ => rfl) calm_deselect

theorem calm_writeIfRoom : (writeIfRoom c).Calm c := by
  refine (calm_readReg _).bind fun next => (calm_readReg _).bind fun cap => ?_
  split
  · exact .write fun _ => rfl
  · exact calm_writeRecord

theorem calmTo_stoWriteProg : (stoWriteProg c).CalmTo c 8#4 := by
  refine (Prog.Calm.ask _).bindTo fun enabled => .andThen ?_ (calmTo_endPhase (by decide))
  split
  · exact calm_writeIfRoom
  · exact .ret _

/-! ## The operations of the main loop -/

theorem calmTo_schStclrProg : schStclrProg.CalmTo c 9#4 := .andThen (calm_writeStatus rfl) (calmTo_endPhase (by decide))

/-- An operation of the cycle is calm up to its last micro-step, which writes the next phase (R24). -/
theorem calmTo_loopProg {which : LoopOp} {p : Nat} (h : phaseOf which = some p) :
    (loopProg c which).CalmTo c (BitVec.ofNat 4 (p + 1)) := by
  cases which <;> cases h
  case frmDrain => exact calmTo_frmDrainProg
  case hdgPoll => exact calmTo_hdgPollProg
  case encDrain => exact calmTo_encDrainProg
  case estUpdate => exact calmTo_estUpdateProg
  case gdeUpdate => exact calmTo_gdeUpdateProg
  case actUpdate => exact calmTo_actUpdateProg
  case stoWrite => exact calmTo_stoWriteProg
  case schStclr => exact calmTo_schStclrProg

/-- The other operations are calm. -/
theorem calm_loopProg {which : LoopOp} (h : phaseOf which = none) : (loopProg c which).Calm c := by
  cases which <;> cases h
  case actStartup => exact calm_actStartupProg
  case startupPulse left => exact calm_startupPulse
  case stoInit => exact calm_stoInitProg
  case hdgBegin => exact calm_hdgBeginProg

theorem tame_loopProg (which : LoopOp) : (loopProg c which).Tame c := by
  cases h : phaseOf which with
  | none => exact (calm_loopProg h).toTame
  | some p => exact (calmTo_loopProg h).toTame

end Sys2Proof.Machine
end

section
/-!
SUPPORT. What a step of each agent keeps: from a good state no step faults, and every next state is good (`10_state.md` rules R22 to
R37, `41_framer.md` rule R144).
-/

namespace Sys2Proof.Machine

/-! ## Reset -/

/-- Reset makes a good block of any configuration that R357 accepts. -/
theorem inv_blockReset {c : Config} (hc : c.ok = true) (e : Environment) (fresh : Nat) : (Block.reset c e fresh).Inv where
  cfg := hc
  mem := rfl
  prefixGuard := rfl
  suffixGuard := rfl
  status := statusReservedClear_iff.mpr fun i _ => BitVec.getLsbD_zero
  phase := Nat.zero_le _
  waypoint := Nat.zero_le _
  valid := Nat.zero_le _
  count := Nat.two_pow_pos _
  framer := by
    refine ⟨List.length_replicate, fun i => ?_, Nat.zero_le _⟩
    simp [Block.reset, List.getElem?_replicate]
  steerPulse := rfl
  throttlePulse := rfl
  lead := rfl
  csd := rfl
  events _ := rfl

theorem tableLen_le_of_ok {c : Config} (h : c.ok = true) : c.tableLen ≤ 254 := by
  simp only [Config.ok, Config.okTable, Bool.and_eq_true, decide_eq_true_eq] at h
  omega

/-! ## Events and the environment -/

theorem quiet_ite {p : Prop} [Decidable p] {b x y : Block} (hx : Quiet b x) (hy : Quiet b y) : Quiet b (if p then x else y) := by
  split
  · exact hx
  · exact hy

theorem quiet_raiseEvent (e : Event) (b : Block) : Quiet b (raiseEvent e b) := by
  unfold raiseEvent
  split
  · next he => exact ⟨⟨rfl, rfl, fun h => { h with events := fun hd => absurd he (by simpa using hd) }⟩, rfl⟩
  · exact .refl b

theorem quiet_consumeEvent (e : Event) (b : Block) : Quiet b (consumeEvent e b) :=
  ⟨⟨rfl, rfl, fun h => { h with events := fun hd => by simp [h.events hd] }⟩, rfl⟩

theorem quiet_applyQuad (ab : BitVec 2) (b : Block) : Quiet b (applyQuad ab b) := by
  have hlevels : Quiet b { b with env := { b.env with qa := ab.getLsbD 1, qb := ab.getLsbD 0 } } := quiet_of_guarded rfl
  unfold applyQuad
  split
  · exact hlevels
  · exact hlevels.trans (quiet_raiseEvent _ _)

theorem quiet_applyRunEn (level : Bool) (b : Block) : Quiet b (applyRunEn level b) := quiet_of_guarded rfl

/-! ## Scheduler -/

theorem quiet_schTick (b : Block) : Quiet b (schTick b) := by
  unfold schTick
  split
  · have hzero : Quiet b { b with sch := { b.sch with count := 0 } } :=
      ⟨⟨rfl, rfl, fun h => { h with count := Nat.two_pow_pos _ }⟩, rfl⟩
    exact hzero.trans (quiet_raiseEvent _ _)
  · next hne =>
    refine ⟨⟨rfl, rfl, fun h => { h with count := ?_ }⟩, rfl⟩
    have := h.count
    show b.sch.count + 1 < 2 ^ b.cfg.schedBits
    omega

theorem quiet_schOvf (b : Block) : Quiet b (schOvf b) :=
  ⟨⟨rfl, rfl, fun h => { (quiet_consumeEvent .ovf b).inv h with }⟩, rfl⟩

theorem mild_setPhase {p : BitVec 4} (hp : p.toNat ≤ 9) (b : Block) : Mild b (setPhase p b) :=
  ⟨rfl, rfl, fun h => { h with phase := hp }⟩

theorem mild_schBegin (b : Block) : Mild b (schBegin b) := by
  unfold schBegin
  split
  · exact ⟨rfl, rfl, fun h => { h with
      phase := show (1#4).toNat ≤ 9 by decide
      count := Nat.two_pow_pos _
      events := fun hd => by simp [h.events hd] }⟩
  · exact (Quiet.refl b).toMild

theorem mild_schWait (b : Block) : Mild b (schWait b) := by
  unfold schWait
  split
  · exact ⟨rfl, rfl, fun h => { h with
      phase := show (0#4).toNat ≤ 9 by decide
      status := statusReservedClear_or (by decide) h.status }⟩
  · split
    · exact mild_setPhase (by decide) b
    · exact (Quiet.refl b).toMild

/-! ## Pulse generators, encoder and heading driver -/

/-- The pulse of a good block is high exactly while its counter runs. -/
theorem out_eq_run_of_inv {b : Block} (h : b.Inv) (ch : Channel) : (getPulse ch b).out = (getPulse ch b).run := by
  cases ch with
  | steering => exact h.steerPulse
  | throttle => exact h.throttlePulse

theorem quiet_pulseTick (ch : Channel) (b : Block) : Quiet b (pulseTick ch b) := by
  have hcount : ∀ n, Quiet b (setPulse ch { getPulse ch b with cnt := n } b) := fun n =>
    quiet_setPulse ch b fun h => out_eq_run_of_inv h ch
  unfold pulseTick
  dsimp only
  split
  · split
    · exact (hcount _).trans (quiet_raiseEvent _ _)
    · exact hcount _
  · exact .refl b

theorem quiet_pulseMatch (ch : Channel) (b : Block) : Quiet b (pulseMatch ch b) :=
  (quiet_consumeEvent _ b).trans (quiet_setPulse ch _ fun _ => rfl)

theorem quiet_edgeError (q : BitVec 2) (b : Block) : Quiet b (edgeError q b) := quiet_of_guarded rfl

theorem quiet_edgeCount (d : U16) (q : BitVec 2) (b : Block) : Quiet b (edgeCount d q b) := quiet_of_guarded rfl

theorem quiet_edgeDecode (q : BitVec 2) (b : Block) : Quiet b (edgeDecode q b) :=
  quiet_ite (quiet_edgeCount _ _ b) <| quiet_ite (quiet_edgeCount _ _ b) (quiet_edgeError _ b)

theorem quiet_hdgAbort (b : Block) : Quiet b (hdgAbort b) := quiet_of_guarded rfl

/-- An arm of the heading driver goes on or aborts, by the driver's state. -/
theorem quiet_orAbort {p : Prop} [Decidable p] {b x : Block} (hx : x.guarded = b.guarded) : Quiet b (if p then x else hdgAbort b) :=
  quiet_ite (quiet_of_guarded hx) (quiet_hdgAbort b)

theorem quiet_hdgOnStart (b : Block) : Quiet b (hdgOnStart b) := quiet_orAbort rfl

theorem quiet_hdgOnSlawAck (b : Block) : Quiet b (hdgOnSlawAck b) := quiet_orAbort rfl

theorem quiet_hdgOnTxdataAck (b : Block) : Quiet b (hdgOnTxdataAck b) := quiet_orAbort rfl

theorem quiet_hdgOnRepStart (b : Block) : Quiet b (hdgOnRepStart b) := quiet_orAbort rfl

theorem quiet_hdgOnSlarAck (b : Block) : Quiet b (hdgOnSlarAck b) := quiet_orAbort rfl

theorem quiet_hdgOnRxdataAck (data : Byte) (b : Block) : Quiet b (hdgOnRxdataAck data b) := quiet_orAbort rfl

theorem quiet_hdgOnRxdataNack (data : Byte) (b : Block) : Quiet b (hdgOnRxdataNack data b) := quiet_orAbort rfl

theorem quiet_hdgEvent (k : TwClass) (data : Byte) (b : Block) : Quiet b (hdgEvent k data b) := by
  cases k with
  | start => exact quiet_hdgOnStart b
  | repStart => exact quiet_hdgOnRepStart b
  | slawAck => exact quiet_hdgOnSlawAck b
  | txdataAck => exact quiet_hdgOnTxdataAck b
  | slarAck => exact quiet_hdgOnSlarAck b
  | rxdataAck => exact quiet_hdgOnRxdataAck data b
  | rxdataNack => exact quiet_hdgOnRxdataNack data b
  | other => exact quiet_hdgAbort b

/-! ## Framer -/

/-- A change that is quiet where it can be made, and can be made in every good block. -/
def QuietOr (b : Block) : Except Fault Block → Prop
  | .ok b' => Quiet b b'
  | .error _ => ¬ b.Inv

theorem Quiet.thenOr {b b' : Block} {r : Except Fault Block} (h : Quiet b b') (hr : QuietOr b' r) : QuietOr b r := by
  cases r with
  | error e => exact fun hb => hr (h.inv hb)
  | ok b'' => exact h.trans hr

theorem QuietOr.bind {b : Block} {r : Except Fault Block} {g : Block → Except Fault Block} (hr : QuietOr b r)
    (hg : ∀ b', r = .ok b' → QuietOr b' (g b')) : QuietOr b (r.bind g) := by
  cases r with
  | error e => exact hr
  | ok b' => exact hr.thenOr (hg b' rfl)

theorem QuietOr.map {b : Block} {r : Except Fault Block} {f : Block → Block} (hr : QuietOr b r)
    (hf : ∀ b', r = .ok b' → Quiet b' (f b')) : QuietOr b (r.map f) := by
  cases r with
  | error e => exact hr
  | ok b' => exact hr.trans (hf b' rfl)

/-- The slot that `cur` names exists, and the cursor and the byte after it are bytes of it (R144). -/
theorem cursor_inside {b : Block} (h : b.Inv) {i : Nat} (hcur : b.frm.cur = some i) :
    i < b.cfg.nSlots ∧ b.frm.w + 1 < b.cfg.sentenceCap := by
  obtain ⟨hlen, hclaimed, hw⟩ := h.framer
  have hcap : 8 ≤ b.cfg.sentenceCap := by
    have hok := h.cfg
    simp only [Config.ok, Config.okSlots, Bool.and_eq_true, decide_eq_true_eq] at hok
    omega
  obtain ⟨hi, -⟩ := List.getElem?_eq_some_iff.mp ((hclaimed i).mpr hcur)
  exact ⟨hlen ▸ hi, by omega⟩

/-- A byte stored at the cursor or after it is stored in the claimed slot. -/
theorem quietOr_storeSlot {i k : Nat} {b : Block} (v : Byte) (hcur : b.frm.cur = some i) (hk : k ≤ b.frm.w + 1) :
    QuietOr b (storeSlot i k v b) := by
  unfold storeSlot
  split
  · exact ⟨⟨rfl, rfl, fun h => { h with mem := wf_memWrite _ v h.mem }⟩, rfl⟩
  · next hout =>
    intro h
    obtain ⟨hi, hw⟩ := cursor_inside h hcur
    exact hout ⟨hi, by omega⟩

/-- The first free slot claimed, when none is. -/
theorem framerOk_claim {i : Nat} {b : Block} (h : framerOk b) (hcur : b.frm.cur = none) (hi : firstFree b.frm.slots = some i) :
    framerOk { b with frm := { b.frm with slots := b.frm.slots.set i .claimed, cur := some i, w := 0, dropping := false } } := by
  obtain ⟨hlen, hclaimed, -⟩ := h
  obtain ⟨hlt, -⟩ := List.findIdx?_eq_some_iff_getElem.mp hi
  refine ⟨by simpa using hlen, fun j => ?_, Nat.zero_le _⟩
  simp only [List.getElem?_set, Option.some.injEq]
  split
  · next hij => simp [hij]
  · next hij => simp [hclaimed, hcur, hij]

theorem quiet_rxClaim (b : Block) : Quiet b (rxClaim b).1 := by
  unfold rxClaim
  split
  · exact .refl b
  · next hcur =>
    split
    · exact quiet_of_guarded rfl
    · next i hi => exact ⟨⟨rfl, rfl, fun h => { h with framer := framerOk_claim h.framer hcur hi }⟩, rfl⟩

theorem quiet_rxRestart (b : Block) : Quiet b (rxRestart b) := by
  unfold rxRestart
  split
  · exact ⟨⟨rfl, rfl, fun h => { h with framer := ⟨h.framer.1, h.framer.2.1, Nat.zero_le _⟩ }⟩, rfl⟩
  · exact .refl b

theorem quiet_rxAdvance (b : Block) : Quiet b (rxAdvance b) := by
  unfold rxAdvance
  split
  · exact quiet_of_guarded rfl
  · next hw => exact ⟨⟨rfl, rfl, fun h => { h with framer := ⟨h.framer.1, h.framer.2.1, Nat.le_of_not_lt hw⟩ }⟩, rfl⟩

/-- The claimed slot made ready is the claim released. -/
theorem quiet_rxRelease {i : Nat} {b : Block} (hcur : b.frm.cur = some i) : Quiet b (rxRelease i b) := by
  refine ⟨⟨rfl, rfl, fun h => { h with framer := ?_ }⟩, rfl⟩
  obtain ⟨hlen, hclaimed, hw⟩ := h.framer
  refine ⟨by simpa [rxRelease] using hlen, fun j => ?_, hw⟩
  simp only [rxRelease, List.getElem?_set]
  split
  · simp
  · next hij => simp [hclaimed, hcur, hij]

theorem quietOr_rxAppend (v : Byte) (b : Block) : QuietOr b (rxAppend v b) := by
  unfold rxAppend
  split
  · exact .refl b
  · next i hcur => exact (quietOr_storeSlot v hcur (by omega)).map fun _ _ => quiet_rxAdvance _

theorem quietOr_rxComplete (b : Block) : QuietOr b (rxComplete b) := by
  unfold rxComplete
  split
  · exact .refl b
  · next i hcur =>
    refine (quietOr_storeSlot _ hcur (by omega)).bind fun b1 h1 => ?_
    have hframer1 : b1.frm = b.frm := by rw [(storeSlot_ok h1).2.2]
    rw [← hframer1] at hcur ⊢
    refine (quietOr_storeSlot _ hcur (Nat.le_refl _)).map fun b2 h2 => quiet_rxRelease ?_
    rw [(storeSlot_ok h2).2.2]
    exact hcur

theorem quietOr_rxStartArm (b : Block) : QuietOr b (rxStartArm b) := by
  unfold rxStartArm
  split
  · exact .refl b
  · exact (quiet_rxRestart b).thenOr (quietOr_rxAppend _ _)

theorem quietOr_rxDataArm (v : Byte) (b : Block) : QuietOr b (rxDataArm v b) := by
  unfold rxDataArm
  split
  · exact .refl b
  · exact quietOr_rxAppend v b

theorem quietOr_rxArm (v : Byte) (b : Block) : QuietOr b (rxArm v b) := by
  unfold rxArm
  cases rxClass v with
  | start => exact quietOr_rxStartArm b
  | term => exact quietOr_rxComplete b
  | data => exact quietOr_rxDataArm v b

theorem quietOr_rxReceive (v : Byte) {arm : Block → Except Fault Block} (harm : ∀ b, QuietOr b (arm b)) (b : Block) :
    QuietOr b (rxReceive v arm b) := by
  have hclaim : Quiet b (rxClaim (consumeEvent (.rx v) b)).1 := (quiet_consumeEvent _ b).trans (quiet_rxClaim _)
  unfold rxReceive
  dsimp only
  split
  · exact hclaim.thenOr (harm _)
  · exact hclaim

/-! ## Handlers -/

/-- A handler makes a quiet change of the block and no other, and faults from no good block. -/
theorem handler_cases (e : Event) (s : State) :
    (∃ b, Quiet s.blk b ∧ exec (handlerOf e s.blk) s = .next { s with blk := b })
      ∨ ((∃ f, exec (handlerOf e s.blk) s = .fault f) ∧ ¬ s.blk.Inv) := by
  have hdone : ∀ {f : Block → Block}, Quiet s.blk (f s.blk) → exec (handlerOf e s.blk) s = done f s →
      ∃ b, Quiet s.blk b ∧ exec (handlerOf e s.blk) s = .next { s with blk := b } := fun hq he => ⟨_, hq, he⟩
  cases e with
  | rx v =>
    have hq := quietOr_rxReceive v (quietOr_rxArm v) s.blk
    have he : exec (handlerOf (.rx v) s.blk) s = doneOrFault (rxReceive v (rxArm v) s.blk) s := rfl
    rw [he]
    generalize rxReceive v (rxArm v) s.blk = r at hq
    cases r with
    | ok b => exact .inl ⟨b, hq, rfl⟩
    | error f => exact .inr ⟨⟨f, rfl⟩, hq⟩
  | tw st data => exact .inl (hdone ((quiet_consumeEvent _ _).trans (quiet_hdgEvent _ _ _)) rfl)
  | qe => exact .inl (hdone ((quiet_consumeEvent _ _).trans (quiet_edgeDecode _ _)) rfl)
  | cm ch => exact .inl (hdone (quiet_pulseMatch ch _) rfl)
  | ovf => exact .inl (hdone (quiet_schOvf _) rfl)

/-! ## Instructions as a whole -/

/-- What an instruction may come to: a good block with the waypoint index no lower and no operation begun, or a refusal. -/
def Sound (s : State) : Host.Outcome State Fault Refusal → Prop
  | .next t => t.blk.GoodUnder s.blk.cfg ∧ s.blk.record.wpIndex.toNat ≤ t.blk.record.wpIndex.toNat
      ∧ ∀ which path, t.task = some (.op which path) → s.task = some (.op which path)
  | .fault _ => False
  | .refused _ => True

theorem sound_mild {s : State} (hs : s.blk.Inv) {f : Block → Block} (hf : ∀ b, Mild b (f b)) : Sound s (done f s) :=
  ⟨(hf _).good ⟨hs, rfl⟩, by rw [mapBlk_blk, (hf _).wpIndex], fun _ _ h => h⟩

theorem sound_quiet {s : State} (hs : s.blk.Inv) {f : Block → Block} (hf : ∀ b, Quiet b (f b)) : Sound s (done f s) :=
  sound_mild hs fun b => (hf b).toMild

theorem sound_quietOr {s : State} (hs : s.blk.Inv) {r : Except Fault Block} (hr : QuietOr s.blk r) : Sound s (doneOrFault r s) := by
  cases r with
  | ok b => exact ⟨Mild.good hr.toMild ⟨hs, rfl⟩, Nat.le_of_eq (congrArg _ hr.wpIndex.symm), fun _ _ h => h⟩
  | error f => exact hr hs

/-- The whole of a tame program. -/
theorem Prog.Tame.run {c : Config} {p : Prog α} (hp : p.Tame c) {b : Block} (hb : b.GoodUnder c) :
    (p.run b).2.GoodUnder c ∧ b.record.wpIndex.toNat ≤ (p.run b).2.record.wpIndex.toNat := by
  obtain ⟨hi, rfl⟩ := hb
  exact ⟨hp.keeps.run ⟨hi, rfl⟩, (hp.climbs (tableLen_le_of_ok hi.cfg) _ hi.waypoint).run rfl⟩

theorem sound_complete {s : State} (hs : s.blk.Inv) {p : Prog α} (hp : p.Tame s.blk.cfg) : Sound s (complete p s) := by
  obtain ⟨hgood, hle⟩ := hp.run ⟨hs, rfl⟩
  exact ⟨hgood, hle, fun _ _ h => h⟩

theorem sound_perform {s : State} (hs : s.blk.Inv) {p : Prog α} (hp : p.Tame s.blk.cfg) : Sound s (perform p s) := by
  unfold perform
  split
  · next r hr =>
    obtain ⟨hgood, hle⟩ := hp.run ⟨hs, rfl⟩
    rw [Prog.run_of_attempt hr] at hgood hle
    exact ⟨hgood, hle, fun _ _ h => h⟩
  · next e he =>
    cases e with
    | fault f => exact absurd he (hp.keeps.attempt ⟨hs, rfl⟩ f)
    | refusal r => exact True.intro

/-- A storage operation that returns its value. -/
theorem sound_returning {s : State} (hs : s.blk.Inv) {p : Config → Prog α} (hp : (p s.blk.cfg).Calm s.blk.cfg) (g : α → Result) :
    Sound s (done (fun b => setRet (g ((p b.cfg).run b).1) ((p b.cfg).run b).2) s) := by
  have hrun := sound_complete hs (hp.bind fun a => calm_returns (g a)).toTame
  rw [complete] at hrun
  simpa only [done, State.mapBlk, Prog.run_bind, run_returns] using hrun

theorem sound_execActStartup {s : State} (hs : s.blk.Inv) : Sound s (execActStartup s) := by
  obtain ⟨hgood, hle⟩ := (calm_actStartupProg (c := s.blk.cfg)).toTame.run ⟨hs, rfl⟩
  refine ⟨hgood, hle, fun which path h => ?_⟩
  change (firstWait s.blk.cfg).or s.task = _ at h
  unfold firstWait at h
  split at h
  · exact h
  · simp at h

/-- From a good block every instruction comes to a good block or is refused, and none lowers the waypoint index. -/
theorem exec_sound {s : State} (hs : s.blk.Inv) (i : Instr) : Sound s (exec i s) := by
  cases i
  case schBegin => exact sound_mild hs mild_schBegin
  case schWait => exact sound_mild hs mild_schWait
  case schTick => exact sound_quiet hs quiet_schTick
  case schOvf => exact sound_quiet hs quiet_schOvf
  case schStclr => exact sound_complete hs calmTo_schStclrProg.toTame
  case frmRx v => exact sound_quietOr hs (quietOr_rxReceive v (quietOr_rxArm v) _)
  case frmRxStart => exact sound_quietOr hs (quietOr_rxReceive _ quietOr_rxStartArm _)
  case frmRxTerm => exact sound_quietOr hs (quietOr_rxReceive _ quietOr_rxComplete _)
  case frmRxData v => exact sound_quietOr hs (quietOr_rxReceive v (quietOr_rxDataArm v) _)
  case frmDrain => exact sound_complete hs calmTo_frmDrainProg.toTame
  case prsChk line => exact sound_quiet hs fun _ => quiet_of_guarded rfl
  case prsParse line => exact sound_complete hs (calm_parseLine line).toTame
  case prsGga line => exact sound_complete hs (calm_parseGga line).toTame
  case prsRmc line => exact sound_complete hs (calm_parseRmc line).toTame
  case prsParseGga rest => exact sound_complete hs (calm_parseGga _).toTame
  case prsParseRmc rest => exact sound_complete hs (calm_parseRmc _).toTame
  case prsParseIgnore line => exact ⟨⟨hs, rfl⟩, Nat.le_refl _, fun _ _ h => h⟩
  case hdgBegin => exact sound_perform hs calm_hdgBeginProg.toTame
  case hdgPoll => exact sound_perform hs calmTo_hdgPollProg.toTame
  case hdgEvt st data => exact sound_quiet hs fun _ => (quiet_consumeEvent _ _).trans (quiet_hdgEvent _ _ _)
  case hdgEvtStart st data => exact sound_quiet hs fun _ => (quiet_consumeEvent _ _).trans (quiet_hdgOnStart _)
  case hdgEvtRepstart st data => exact sound_quiet hs fun _ => (quiet_consumeEvent _ _).trans (quiet_hdgOnRepStart _)
  case hdgEvtSlawAck st data => exact sound_quiet hs fun _ => (quiet_consumeEvent _ _).trans (quiet_hdgOnSlawAck _)
  case hdgEvtTxdataAck st data => exact sound_quiet hs fun _ => (quiet_consumeEvent _ _).trans (quiet_hdgOnTxdataAck _)
  case hdgEvtSlarAck st data => exact sound_quiet hs fun _ => (quiet_consumeEvent _ _).trans (quiet_hdgOnSlarAck _)
  case hdgEvtRxdataAck st data => exact sound_quiet hs fun _ => (quiet_consumeEvent _ _).trans (quiet_hdgOnRxdataAck _ _)
  case hdgEvtRxdataNack st data => exact sound_quiet hs fun _ => (quiet_consumeEvent _ _).trans (quiet_hdgOnRxdataNack _ _)
  case hdgEvtOther st data => exact sound_quiet hs fun _ => (quiet_consumeEvent _ _).trans (quiet_hdgAbort _)
  case encEdge ab => exact sound_quiet hs fun _ => (quiet_consumeEvent _ _).trans (quiet_edgeDecode _ _)
  case encEdgeNochg => exact sound_quiet hs fun _ => (quiet_consumeEvent _ _).trans (quiet_edgeError _ _)
  case encEdgeBoth => exact sound_quiet hs fun _ => (quiet_consumeEvent _ _).trans (quiet_edgeError _ _)
  case encEdgeA => exact sound_quiet hs fun _ => (quiet_consumeEvent _ _).trans (quiet_edgeCount _ _ _)
  case encEdgeB => exact sound_quiet hs fun _ => (quiet_consumeEvent _ _).trans (quiet_edgeCount _ _ _)
  case encDrain => exact sound_complete hs calmTo_encDrainProg.toTame
  case estUpdate => exact sound_complete hs calmTo_estUpdateProg.toTame
  case gdeCrossed wp px py =>
    show Sound s (execGdeCrossed wp px py s)
    unfold execGdeCrossed
    split
    · exact sound_quiet hs fun _ => quiet_of_guarded rfl
    · exact True.intro
  case gdeAdvance => exact sound_perform hs (calm_advanceProg _).toTame
  case gdeAngle px py heading =>
    obtain ⟨w, hw⟩ := Option.isSome_iff_exists.mp (waypointAt_isSome.mpr hs.waypoint)
    show Sound s (execGdeAngle px py heading s)
    rw [execGdeAngle, hw]
    exact sound_quiet hs fun _ => quiet_of_guarded rfl
  case gdeUpdate => exact sound_perform hs calmTo_gdeUpdateProg.toTame
  case actFwd k =>
    show Sound s (execActFwd k s)
    unfold execActFwd
    split
    · exact sound_complete hs (calm_driveForward _).toTame
    · exact True.intro
  case actStop => exact sound_complete hs calm_driveStop.toTame
  case actRev k =>
    show Sound s (execActRev k s)
    unfold execActRev
    split
    · exact sound_complete hs (calm_driveReverse _).toTame
    · exact True.intro
  case actSteer angle => exact sound_complete hs (calm_steerTo angle).toTame
  case actUpdate => exact sound_perform hs calmTo_actUpdateProg.toTame
  case actStartup => exact sound_execActStartup hs
  case plsStart ch => exact sound_quiet hs (quiet_pulseStart ch)
  case plsMatch ch => exact sound_quiet hs (quiet_pulseMatch ch)
  case plsTick ch => exact sound_quiet hs (quiet_pulseTick ch)
  case stoCmd cmd arg trail => exact sound_returning hs (p := fun c => command c ⟨cmd, arg, trail⟩) (calm_command _) .answer
  case stoCmdReset => exact sound_returning hs (p := fun c => commandAlone c frameReset) (calm_commandAlone _) .answer
  case stoCmdIfcond => exact sound_returning hs (p := cmdIfcond) calm_cmdIfcond .flag
  case stoCmdApp => exact sound_returning hs (p := fun c => commandAlone c frameApp) (calm_commandAlone _) .answer
  case stoCmdOpcond => exact sound_returning hs (p := fun c => commandAlone c frameOpcond) (calm_commandAlone _) .answer
  case stoCmdReadocr => exact sound_returning hs (p := cmdReadocr) calm_cmdReadocr .word
  case stoCmdReadcsd => exact sound_returning hs (p := cmdReadcsd) calm_cmdReadcsd .flag
  case stoCmdReadblk addr => exact sound_returning hs (p := fun c => command c (frameReadblk addr)) (calm_command _) .answer
  case stoCmdWriteblk addr => exact sound_returning hs (p := fun c => command c (frameWriteblk addr)) (calm_command _) .answer
  case stoReadblk addr => exact sound_returning hs (p := fun c => readBlock c addr) (calm_readBlock _) .flag
  case stoFind => exact sound_returning hs (p := findBlock) calm_findBlock fun k => .word (k.map (BitVec.ofNat 32))
  case stoInit => exact sound_complete hs calm_stoInitProg.toTame
  case stoWrite => exact sound_complete hs calmTo_stoWriteProg.toTame

end Sys2Proof.Machine
end

section
/-!
SUPPORT. Steps: the main loop, the handlers and the environment, and the fetch of a scripted operation, on good states.
-/

namespace Sys2Proof.Machine

/-! ## Good states -/

theorem inv_of_good {c : Config} {t : State} (hb : t.blk.GoodUnder c)
    (ht : ∀ which path, t.task = some (.op which path) → (remaining c which path).KeepsFrom (Block.GoodUnder c)) : t.Inv := by
  obtain ⟨hi, rfl⟩ := hb
  exact ⟨hi, ht⟩

/-- An outcome without a fault, whose next state is good. -/
def Safe : Host.Outcome State Fault Refusal → Prop
  | .next t => t.Inv
  | .fault _ => False
  | .refused _ => True

theorem Sound.safe {s : State} (hs : s.Inv) {o : Host.Outcome State Fault Refusal} (h : Sound s o) : Safe o := by
  cases o with
  | next t =>
    obtain ⟨hgood, -, htask⟩ := h
    exact inv_of_good hgood fun which path ht => hs.task which path (htask which path ht)
  | fault f => exact h
  | refused r => exact h

/-- An outcome without a fault, whose next state is good; and where an operation in progress had read the waypoint index as it stands,
the index is no lower, and what is left of the operation has again read it as it stands. -/
def Fine (s : State) : Host.Outcome State Fault Refusal → Prop
  | .next t => t.Inv ∧ (climbing s → climbing t ∧ s.blk.record.wpIndex.toNat ≤ t.blk.record.wpIndex.toNat)
  | .fault _ => False
  | .refused _ => True

theorem Fine.safe {s : State} {o : Host.Outcome State Fault Refusal} (h : Fine s o) : Safe o := by
  cases o with
  | next t => exact h.1
  | fault f => exact h
  | refused r => exact h

/-- The place of the boot sequence matters to neither property. -/
theorem Fine.thenBoot {s : State} {o : Host.Outcome State Fault Refusal} (h : Fine s o) (boot : Boot) : Fine s (thenBoot boot o) := by
  cases o with
  | next t => exact ⟨⟨h.1.blk, h.1.task⟩, fun hc => h.2 hc⟩
  | fault f => exact h
  | refused r => exact h

/-- A mild change of the block, the operation in progress kept. -/
theorem fine_mild {s t : State} (hs : s.Inv) (hb : Mild s.blk t.blk) (ht : t.task = s.task) : Fine s (.next t) := by
  have hinv : t.Inv := inv_of_good (hb.good ⟨hs.blk, rfl⟩) fun which path h => hs.task which path (ht ▸ h)
  refine ⟨hinv, fun hc => ⟨fun which path h => ?_, ?_⟩⟩
  · rw [hb.cfg, hb.wpIndex]
    exact hc which path (ht ▸ h)
  · rw [hb.wpIndex]

/-! ## Micro-steps -/

/-- An operation in progress, or one that begins. -/
def Ongoing (s : State) (which : LoopOp) (path : List Nat) : Prop := s.task = some (.op which path) ∨ path = []

/-- What is left of an ongoing operation keeps good blocks good. -/
theorem Ongoing.keeps {s : State} {which : LoopOp} {path : List Nat} (hs : s.Inv) (h : Ongoing s which path) :
    (remaining s.blk.cfg which path).KeepsFrom (Block.GoodUnder s.blk.cfg) := by
  obtain ht | rfl := h
  · exact hs.task which path ht
  · rw [remaining, Prog.follow_nil]
    exact (tame_loopProg which).keeps

/-- What is left of an ongoing operation has read the waypoint index as it stands. -/
theorem Ongoing.climbs {s : State} {which : LoopOp} {path : List Nat} (hs : s.Inv) (hc : climbing s) (h : Ongoing s which path) :
    (remaining s.blk.cfg which path).Climbs s.blk.cfg s.blk.record.wpIndex := by
  obtain ht | rfl := h
  · exact hc which path ht
  · rw [remaining, Prog.follow_nil]
    exact ((tame_loopProg which).climbs (tableLen_le_of_ok hs.blk.cfg) _ hs.blk.waypoint).climbs

/-- When an operation has ended the main loop's next task is a wait or none. -/
theorem nextTask_ne_op (c : Config) (which which' : LoopOp) (path : List Nat) : nextTask c which ≠ some (.op which' path) := by
  unfold nextTask firstWait
  split
  · split <;> simp
  · simp
  · simp

theorem taskAfter_eq_op {c : Config} {which which' : LoopOp} {path path' : List Nat}
    (h : taskAfter c which path = some (.op which' path')) : which' = which ∧ path' = path := by
  unfold taskAfter at h
  split at h
  · exact absurd h (nextTask_ne_op _ _ _ _)
  · simpa [eq_comm] using h

/-- A micro-step of an ongoing operation. -/
theorem fine_microStep {s : State} (hs : s.Inv) {which : LoopOp} {path : List Nat} (ho : Ongoing s which path) :
    Fine s (microStep which path s) := by
  have hk := ho.keeps hs
  unfold microStep
  split
  · next e he =>
    cases e with
    | fault f => exact hk.blocked ⟨hs.blk, rfl⟩ f he
    | refusal r => exact True.intro
  · cases hfirst : (remaining s.blk.cfg which path).first s.blk with
    | none =>
      rw [advance_of_first_none hfirst]
      exact ⟨⟨hs.blk, fun _ _ h => absurd h (nextTask_ne_op _ _ _ _)⟩, fun _ =>
        ⟨fun _ _ h => absurd h (nextTask_ne_op _ _ _ _), Nat.le_refl _⟩⟩
    | some x =>
      rw [advance_of_first hfirst]
      obtain ⟨hgood, hrest⟩ := hk.step ⟨hs.blk, rfl⟩ hfirst
      refine ⟨inv_of_good hgood fun which' path' h => ?_, fun hc => ?_⟩
      · obtain ⟨rfl, rfl⟩ := taskAfter_eq_op h
        rw [remaining_append]
        exact hrest
      · obtain ⟨hle, hclimb⟩ := (ho.climbs hs hc).step rfl hfirst
        refine ⟨fun which' path' h => ?_, hle⟩
        obtain ⟨rfl, rfl⟩ := taskAfter_eq_op h
        change (remaining x.1.cfg which' (path ++ [x.2])).Climbs x.1.cfg _
        rw [hgood.2, remaining_append]
        exact hclimb

/-! ## Agents -/

/-- The main loop between two operations of the cycle (R24, R125). -/
theorem phaseStep_cases {s : State} (h : s.blk.phase.toNat ≤ 9) :
    (s.blk.phase.toNat = 0 ∧ phaseStep s = done schBegin s) ∨ (s.blk.phase.toNat = 9 ∧ phaseStep s = done schWait s)
      ∨ ∃ which, phaseOf which = some s.blk.phase.toNat ∧ phaseStep s = microStep which [] s := by
  unfold phaseStep
  generalize s.blk.phase.toNat = p at h ⊢
  interval_cases p
  · exact .inl ⟨rfl, rfl⟩
  · exact .inr (.inr ⟨.frmDrain, rfl, rfl⟩)
  · exact .inr (.inr ⟨.hdgPoll, rfl, rfl⟩)
  · exact .inr (.inr ⟨.encDrain, rfl, rfl⟩)
  · exact .inr (.inr ⟨.estUpdate, rfl, rfl⟩)
  · exact .inr (.inr ⟨.gdeUpdate, rfl, rfl⟩)
  · exact .inr (.inr ⟨.actUpdate, rfl, rfl⟩)
  · exact .inr (.inr ⟨.stoWrite, rfl, rfl⟩)
  · exact .inr (.inr ⟨.schStclr, rfl, rfl⟩)
  · exact .inr (.inl ⟨rfl, rfl⟩)

theorem fine_phaseStep {s : State} (hs : s.Inv) : Fine s (phaseStep s) := by
  obtain ⟨-, he⟩ | ⟨-, he⟩ | ⟨which, -, he⟩ := phaseStep_cases hs.blk.phase <;> rw [he]
  · exact fine_mild hs (mild_schBegin _) rfl
  · exact fine_mild hs (mild_schWait _) rfl
  · exact fine_microStep hs (.inr rfl)

/-- The first step of the boot sequence brings the reset values; every other one is fine (R351). -/
theorem bootStep_cases {s : State} (hs : s.Inv) :
    Fine s (bootStep s) ∨ (s.boot = .reset ∧ bootStep s = .next { s with blk := resetBlock s.blk, boot := .sample }) := by
  unfold bootStep
  cases s.boot with
  | reset => exact .inr ⟨rfl, rfl⟩
  | sample => exact .inl (fine_mild hs ⟨rfl, rfl, fun h => { h with }⟩ rfl)
  | enable => exact .inl (fine_mild hs ⟨rfl, rfl, fun h => { h with events := nofun }⟩ rfl)
  | startup => exact .inl ((fine_microStep hs (.inr rfl)).thenBoot _)
  | init => exact .inl ((fine_microStep hs (.inr rfl)).thenBoot _)
  | begin => exact .inl ((fine_microStep hs (.inr rfl)).thenBoot _)
  | enter => exact .inl (fine_mild hs (mild_setPhase (by decide) _) rfl)
  | loop => exact .inl (fine_phaseStep hs)

/-- A look at the wait of `ACT.STARTUP` leaves the block alone, and the task at its begin if it is an operation. -/
theorem fine_startupWait {s : State} (hs : s.Inv) (left : Nat) : Fine s (.next (startupWait left s)) := by
  have hbegin : ∀ task, (∀ which path, task = some (.op which path) → path = []) → Fine s (.next { s with task := task }) := by
    intro task htask
    refine ⟨⟨hs.blk, fun which path h => ?_⟩, fun hc => ⟨fun which path h => ?_, Nat.le_refl _⟩⟩
    · exact Ongoing.keeps (s := s) hs (.inr (htask which path h))
    · exact Ongoing.climbs (s := s) hs hc (.inr (htask which path h))
  unfold startupWait
  split
  · cases left with
    | zero => exact hbegin none nofun
    | succ n => exact hbegin _ fun which path h => by cases h; rfl
  · exact fine_mild hs (Quiet.refl s.blk).toMild rfl

/-- The main loop brings the reset values in the first step of the boot sequence; every other step of it is fine. -/
theorem mainStep_cases {s : State} (hs : s.Inv) :
    Fine s (mainStep s)
      ∨ (s.boot = .reset ∧ mainStep s = .next { s with blk := resetBlock s.blk, boot := .sample, task := none }) := by
  unfold mainStep
  split
  · next which path ht => exact .inl (fine_microStep hs (.inl ht))
  · exact .inl (fine_startupWait hs _)
  · next ht =>
    rw [← ht]
    exact bootStep_cases hs

/-- A handler's step, or nothing when there is no such event. -/
theorem fine_handlerStep {s : State} (hs : s.Inv) (k : Nat) : Fine s (handlerStep k s) := by
  unfold handlerStep
  split
  · next e _ =>
    obtain ⟨b, hq, he⟩ | ⟨-, hbad⟩ := handler_cases e s
    · rw [he]
      exact fine_mild hs hq.toMild rfl
    · exact absurd hs.blk hbad
  · exact fine_mild hs (Quiet.refl s.blk).toMild rfl

/-- `rst` and the first step of the boot sequence bring the reset values; every other step of an agent is fine (R350). -/
theorem applyArrival_cases {s : State} (hs : s.Inv) (a : Arrival) :
    Fine s (applyArrival a s)
      ∨ ((a = .rst ∨ (a = .mainLoop ∧ s.boot = .reset))
        ∧ ∃ boot, applyArrival a s = .next { s with blk := resetBlock s.blk, boot := boot, task := none }) := by
  cases a with
  | mainLoop =>
    obtain hfine | ⟨hboot, he⟩ := mainStep_cases hs
    · exact .inl hfine
    · exact .inr ⟨.inr ⟨rfl, hboot⟩, _, he⟩
  | handler k => exact .inl (fine_handlerStep hs k)
  | rxByte v => exact .inl (fine_mild hs (quiet_raiseEvent _ _).toMild rfl)
  | twEvent st data => exact .inl (fine_mild hs (quiet_raiseEvent _ _).toMild rfl)
  | quad ab => exact .inl (fine_mild hs (quiet_applyQuad ab _).toMild rfl)
  | tick => exact .inl (fine_mild hs (quiet_schTick _).toMild rfl)
  | pulseTick ch => exact .inl (fine_mild hs (quiet_pulseTick ch _).toMild rfl)
  | runEn level => exact .inl (fine_mild hs (quiet_applyRunEn level _).toMild rfl)
  | rst => exact .inr ⟨.inl rfl, _, rfl⟩

theorem safe_applyArrival {s : State} (hs : s.Inv) (a : Arrival) : Safe (applyArrival a s) := by
  obtain hfine | ⟨-, boot, he⟩ := applyArrival_cases hs a
  · exact hfine.safe
  · rw [he]
    exact ⟨inv_blockReset hs.blk.cfg _ _, nofun⟩

theorem safe_runWire {s : State} (hs : s.Inv) (w : Wire) (script : List Input) : Safe (runWire w script s) := by
  unfold runWire
  split
  · next i rest _ =>
    have hs' : State.Inv { s with script := scriptRest w.fmt rest script } := ⟨hs.blk, hs.task⟩
    exact (exec_sound hs'.blk i).safe hs'
  · exact True.intro

/-- No step from a good state faults, and each leads to a good state. -/
theorem safe_step {s : State} (hs : s.Inv) : Safe (step s) := by
  rw [step, if_pos hs.blk.cfg]
  unfold stepConfigured
  split
  · exact safe_runWire hs _ _
  · refine safe_applyArrival ?_ _
    exact ⟨hs.blk, hs.task⟩
  · refine safe_applyArrival ?_ _
    exact ⟨hs.blk, hs.task⟩

/-! ## The obligations -/

/-- Settles O15: what `safe_step` says of a next state. -/
theorem invKeptByEveryStep : Obligations.InvKeptByEveryStep := by
  unfold Obligations.InvKeptByEveryStep
  intro s t hs ht
  have hsafe := safe_step hs
  rwa [ht] at hsafe

/-- Settles O16: what `safe_step` says of a fault. -/
theorem noFaultFromGoodState : Obligations.NoFaultFromGoodState := by
  unfold Obligations.NoFaultFromGoodState
  intro s f hs hf
  have hsafe := safe_step hs
  rwa [hf] at hsafe

/-- Settles O19: a step that does not bring the reset values is fine, and an instruction is sound. -/
theorem waypointIndexNeverDecreases : Obligations.WaypointIndexNeverDecreases := by
  unfold Obligations.WaypointIndexNeverDecreases
  refine ⟨fun s t a hs hc ht hrst hboot => ?_, fun s t i hs ht => ?_⟩
  · obtain hfine | ⟨hreset, -⟩ := applyArrival_cases hs a
    · rw [ht] at hfine
      exact hfine.2 hc
    · obtain h | ⟨h, hb⟩ := hreset
      · exact absurd h hrst
      · exact absurd hb (hboot h)
  · have hsound := exec_sound hs.blk i
    rw [ht] at hsound
    exact hsound.2.1

/-- Settles O14: reset makes a good block, and no operation is in progress. -/
theorem invHoldsAtReset : Obligations.InvHoldsAtReset := by
  unfold Obligations.InvHoldsAtReset
  exact ⟨inv_blockReset (by decide +kernel) _ _, nofun⟩

end Sys2Proof.Machine
end

section
/-!
SUPPORT. The reset values (`10_state.md` rule R50) and the order of the phases in the cycle (rule R24).
-/

namespace Sys2Proof.Machine

/-- Settles O12: the table of R50 is what `Block.reset` writes, and `rst` writes it whatever comes before. -/
theorem resetValues : Obligations.ResetValues := by
  unfold Obligations.ResetValues
  refine ⟨fun c e fresh => ?_, fun s script hc hs => ?_⟩
  · simp [Block.reset, SharedRecord.reset, Pulse.reset, Environment.sample, memRead]
  · rw [step, if_pos hc, stepConfigured, hs]
    rfl

/-! ## Phases -/

/-- A step within the cycle: the next state is in the cycle too, and its phase is the old one or, by the main loop, the next. -/
def CycleMove (main : Prop) (s t : State) : Prop :=
  inCycle t ∧ (t.blk.phase = s.blk.phase ∨ (main ∧ t.blk.phase.toNat = nextPhase s.blk.phase.toNat))

/-- A change of the block that leaves the phase alone, the main loop's place kept. -/
theorem cycleMove_same {main : Prop} {s t : State} (hs : inCycle s) (hp : t.blk.phase = s.blk.phase) (hb : t.boot = s.boot)
    (ht : t.task = s.task) : CycleMove main s t := by
  refine ⟨?_, .inl hp⟩
  rw [inCycle, hp, hb, ht]
  exact hs

/-- The phase after an operation of the cycle is the next one. -/
theorem endPhase_toNat {which : LoopOp} {p : Nat} (h : phaseOf which = some p) :
    (BitVec.ofNat 4 (p + 1)).toNat = nextPhase p ∧ p + 1 ≤ 9 := by
  cases which <;> cases h <;> exact ⟨rfl, by decide⟩

/-- After an operation of the cycle no task is left. -/
theorem nextTask_of_phaseOf {which : LoopOp} {p : Nat} (h : phaseOf which = some p) (c : Config) : nextTask c which = none := by
  cases which <;> cases h <;> rfl

/-- A micro-step of the operation of the phase. -/
theorem cycleMove_microStep {s t : State} {which : LoopOp} {path : List Nat} (hboot : s.boot = .loop)
    (hw : phaseOf which = some s.blk.phase.toNat) (ht : microStep which path s = .next t) : CycleMove True s t := by
  have hle : s.blk.phase.toNat ≤ 9 := by have := (endPhase_toNat hw).2; omega
  unfold microStep at ht
  split at ht
  · next e _ => cases e <;> cases ht
  · obtain rfl := Host.Outcome.next.inj ht
    cases hfirst : (remaining s.blk.cfg which path).first s.blk with
    | none =>
      rw [advance_of_first_none hfirst, nextTask_of_phaseOf hw]
      exact ⟨⟨hboot, hle, .inl rfl⟩, .inl rfl⟩
    | some x =>
      rw [advance_of_first hfirst]
      have htask : ∀ p, taskAfter s.blk.cfg which p = none ∨ taskAfter s.blk.cfg which p = some (.op which p) := fun p => by
        unfold taskAfter
        split
        · exact .inl (nextTask_of_phaseOf hw _)
        · exact .inr rfl
      obtain hsame | ⟨hnext, hdone⟩ := ((calmTo_loopProg hw).phase.follow path).first hfirst
      · refine ⟨⟨hboot, hsame ▸ hle, (htask _).imp_right fun h => ⟨_, _, h, ?_⟩⟩, .inl hsame⟩
        change _ = some x.1.phase.toNat
        rw [hsame, hw]
      · rw [← remaining, ← remaining_append] at hdone
        obtain ⟨hnat, hle'⟩ := endPhase_toNat hw
        refine ⟨⟨hboot, ?_, .inl ?_⟩, .inr ⟨True.intro, by rw [← hnat, ← hnext]⟩⟩
        · change x.1.phase.toNat ≤ 9
          rw [hnext, BitVec.toNat_ofNat]
          omega
        · rw [taskAfter, if_pos hdone, nextTask_of_phaseOf hw]

/-- `SCH.BEGIN` makes phase 0 phase 1 or leaves it; `SCH.WAIT` makes phase 9 phase 0 or leaves it. -/
theorem schBegin_phase (b : Block) : (schBegin b).phase = b.phase ∨ (schBegin b).phase = 1#4 := by
  unfold schBegin
  split
  · exact .inr rfl
  · exact .inl rfl

theorem schWait_phase (b : Block) : (schWait b).phase = b.phase ∨ (schWait b).phase = 0#4 := by
  unfold schWait
  split
  · exact .inr rfl
  · split
    · exact .inr rfl
    · exact .inl rfl

/-- With no operation in progress the block may change to one of the next phase. -/
theorem cycleMove_done {s : State} (hs : inCycle s) (ht : s.task = none) {f : Block → Block} {q : BitVec 4}
    (hf : (f s.blk).phase = s.blk.phase ∨ (f s.blk).phase = q) (hq : q.toNat = nextPhase s.blk.phase.toNat) (hle : q.toNat ≤ 9) :
    CycleMove True s (s.mapBlk f) := by
  obtain hsame | hnext := hf
  · exact cycleMove_same hs hsame rfl rfl
  · exact ⟨⟨hs.1, by rw [mapBlk_blk, hnext]; exact hle, .inl ht⟩, .inr ⟨True.intro, by rw [mapBlk_blk, hnext, hq]⟩⟩

theorem cycleMove_mainStep {s t : State} (hs : inCycle s) (ht : mainStep s = .next t) : CycleMove True s t := by
  obtain ⟨hboot, hle, htask | ⟨which, path, htask, hw⟩⟩ := hs
  · rw [mainStep, htask] at ht
    simp only [bootStep, hboot] at ht
    obtain ⟨hp, he⟩ | ⟨hp, he⟩ | ⟨which, hw, he⟩ := phaseStep_cases hle <;> rw [he] at ht
    · obtain rfl := Host.Outcome.next.inj ht
      exact cycleMove_done ⟨hboot, hle, .inl htask⟩ htask (schBegin_phase _) (by rw [hp]; rfl) (by decide)
    · obtain rfl := Host.Outcome.next.inj ht
      exact cycleMove_done ⟨hboot, hle, .inl htask⟩ htask (schWait_phase _) (by rw [hp]; rfl) (by decide)
    · exact cycleMove_microStep hboot hw ht
  · rw [mainStep, htask] at ht
    exact cycleMove_microStep hboot hw ht

theorem cycleMove_handlerStep {s t : State} (hs : inCycle s) {k : Nat} (ht : handlerStep k s = .next t) : CycleMove False s t := by
  unfold handlerStep at ht
  split at ht
  · next e _ =>
    obtain ⟨b, hq, he⟩ | ⟨⟨f, he⟩, -⟩ := handler_cases e s <;> rw [he] at ht
    · obtain rfl := Host.Outcome.next.inj ht
      exact cycleMove_same hs hq.phase rfl rfl
    · cases ht
  · obtain rfl := Host.Outcome.next.inj ht
    exact cycleMove_same hs rfl rfl rfl

/-- Settles O11: the main loop is at the operation of the phase, and no other agent writes the phase. -/
theorem cyclePhasesInOrder : Obligations.CyclePhasesInOrder := by
  unfold Obligations.CyclePhasesInOrder
  intro s t a hs ht hrst
  have hquiet : ∀ {f : Block → Block}, Quiet s.blk (f s.blk) → applyArrival a s = done f s →
      CycleMove (a = .mainLoop) s t := by
    intro f hq he
    rw [he] at ht
    obtain rfl := Host.Outcome.next.inj ht
    exact cycleMove_same hs hq.phase rfl rfl
  cases a with
  | mainLoop => simpa [CycleMove] using cycleMove_mainStep hs ht
  | handler k => simpa [CycleMove] using cycleMove_handlerStep hs ht
  | rxByte v => exact hquiet (quiet_raiseEvent _ _) rfl
  | twEvent st data => exact hquiet (quiet_raiseEvent _ _) rfl
  | quad ab => exact hquiet (quiet_applyQuad ab _) rfl
  | tick => exact hquiet (quiet_schTick _) rfl
  | pulseTick ch => exact hquiet (quiet_pulseTick ch _) rfl
  | runEn level => exact hquiet (quiet_applyRunEn level _) rfl
  | rst => exact absurd rfl hrst

end Sys2Proof.Machine
end

section
/-!
SUPPORT. The places of the record image (`10_state.md` rule R21, `20_memory.md` rule R63).
-/

namespace Sys2Proof.Machine

/-! ## Lists of parts -/

/-- Where every part has `n` entries, entry `k` of part `i` stands at `i * n + k`. -/
theorem getElem?_flatMap_range {f : Nat → List α} {n : Nat} (hf : ∀ i, (f i).length = n) {m i k : Nat} (hi : i < m) (hk : k < n) :
    ((List.range m).flatMap f)[i * n + k]? = (f i)[k]? := by
  have hlen : ∀ m, ((List.range m).flatMap f).length = m * n := fun m => by simp [List.length_flatMap, hf]
  induction m with
  | zero => omega
  | succ m ih =>
    rw [List.range_succ, List.flatMap_append]
    rcases Nat.lt_succ_iff_lt_or_eq.mp hi with hlt | rfl
    · have hle : (i + 1) * n ≤ m * n := Nat.mul_le_mul_right _ hlt
      rw [Nat.succ_mul] at hle
      rw [List.getElem?_append_left (by rw [hlen]; omega), ih hlt]
    · rw [List.getElem?_append_right (by rw [hlen]; omega), hlen, Nat.add_sub_cancel_left]
      simp

/-- Parts with the places at which they stand one after the other, the first at `n`. -/
def placed : Nat → List (List α) → List (Nat × List α)
  | _, [] => []
  | n, x :: xs => (n, x) :: placed (n + x.length) xs

/-- Each part stands at its place. -/
theorem placed_spec {n : Nat} {xs : List (List α)} {p : Nat × List α} (hp : p ∈ placed n xs) :
    n ≤ p.1 ∧ p.1 + p.2.length ≤ n + xs.flatten.length ∧ (xs.flatten.drop (p.1 - n)).take p.2.length = p.2 := by
  induction xs generalizing n with
  | nil => cases hp
  | cons x xs ih =>
    rw [List.flatten_cons, List.length_append]
    rcases List.mem_cons.mp hp with rfl | hmem
    · exact ⟨Nat.le_refl _, by dsimp only; omega, by rw [Nat.sub_self]; exact List.take_left⟩
    · obtain ⟨hn, hend, hplace⟩ := ih hmem
      rw [show p.1 - n = x.length + (p.1 - (n + x.length)) by omega, ← List.drop_drop, List.drop_left]
      exact ⟨by omega, by omega, hplace⟩

/-! ## The parts of the image -/

/-- The three words the image begins with. -/
def recordHead (r : SharedRecord) : List Byte := le32 r.guardPrefix ++ le32 r.cycle ++ le32 r.status

/-- The raw fields, one after the other. -/
def recordRaws (b : Block) : List Byte := (List.range b.cfg.nRaw).flatMap (rawText b)

/-- The padding. -/
def recordPadding (b : Block) : List Byte := List.replicate (b.cfg.blockSize - 4 - b.cfg.recordPayload) 0#8

theorem recordImage_eq (b : Block) :
    recordImage b = recordHead b.record
      ++ (recordRaws b ++ (recordTail b.record ++ (recordPadding b ++ le32 b.record.guardSuffix))) := by
  unfold recordImage recordPadding
  dsimp only
  rw [length_recordFields]
  simp only [recordFields, recordHead, recordRaws, List.append_assoc]

theorem length_recordHead (r : SharedRecord) : (recordHead r).length = 12 := rfl

theorem length_recordRaws (b : Block) : (recordRaws b).length = b.cfg.nRaw * b.cfg.sentenceCap := by
  simp [recordRaws, List.length_flatMap]

theorem recordPayload_le {c : Config} (h : c.ok = true) : c.recordPayload + 4 ≤ c.blockSize := by
  simp only [Config.ok, Config.okRecord, Bool.and_eq_true, decide_eq_true_eq] at h
  omega

theorem length_recordPadding (b : Block) : (recordPadding b).length = b.cfg.blockSize - 4 - b.cfg.recordPayload :=
  List.length_replicate

/-- What follows the raw fields stands at its own offset after them. -/
theorem drop_recordImage (b : Block) (n : Nat) :
    (recordImage b).drop (12 + b.cfg.nRaw * b.cfg.sentenceCap + n)
      = (recordTail b.record ++ (recordPadding b ++ le32 b.record.guardSuffix)).drop n := by
  rw [recordImage_eq, Nat.add_assoc, ← List.drop_drop, List.drop_left' (length_recordHead _), ← List.drop_drop,
    List.drop_left' (length_recordRaws b)]

theorem recordByte_raw {b : Block} {i k : Nat} (hi : i < b.cfg.nRaw) (hk : k < b.cfg.sentenceCap) :
    recordByte (12 + i * b.cfg.sentenceCap + k) b = memRead (rawAddr b.cfg i k) b.mem := by
  have hraw : (recordRaws b)[i * b.cfg.sentenceCap + k]? = some (memRead (rawAddr b.cfg i k) b.mem) := by
    rw [recordRaws, getElem?_flatMap_range (length_rawText b) hi hk, List.getElem?_eq_getElem (by rw [length_rawText]; exact hk)]
    unfold rawText
    rw [getElem_memReadList]
    simp [rawAddr]
  have hlt := (List.getElem?_eq_some_iff.mp hraw).1
  rw [recordByte, List.getD_eq_getElem?_getD, recordImage_eq, List.getElem?_append_right (by rw [length_recordHead]; omega),
    length_recordHead, show 12 + i * b.cfg.sentenceCap + k - 12 = i * b.cfg.sentenceCap + k by omega,
    List.getElem?_append_left hlt, hraw]
  rfl

/-- A byte of the padding. -/
theorem recordByte_padding {b : Block} {i : Nat} (hlo : b.cfg.recordPayload ≤ i) (hhi : i < b.cfg.blockSize - 4) :
    recordByte i b = 0#8 := by
  obtain ⟨j, rfl⟩ := Nat.exists_eq_add_of_le hlo
  have hj : (recordImage b)[b.cfg.recordPayload + j]? = (recordPadding b ++ le32 b.record.guardSuffix)[j]? := by
    rw [← List.getElem?_drop, show b.cfg.recordPayload = 12 + b.cfg.nRaw * b.cfg.sentenceCap + 74 from rfl, drop_recordImage,
      List.drop_left' (length_recordTail _)]
  have hlt : j < (recordPadding b).length := by rw [length_recordPadding]; omega
  rw [recordByte, List.getD_eq_getElem?_getD, hj, List.getElem?_append_left hlt, recordPadding, List.getElem?_replicate]
  split <;> rfl

/-- The fields after the raw fields, in their order. -/
def tailFields (r : SharedRecord) : List (List Byte) :=
  [le32 r.gpsLat, le32 r.gpsLon, le32 r.gpsHdop, le32 r.gpsAlt, le32 r.gpsX, le32 r.gpsY, le32 r.gpsSpeed, le32 r.gpsCourse,
    le32 r.gpsDate, le32 r.gpsMagvar, le16 r.hdgRaw, le32 r.hdgDeg, le32 r.hdgRad, le16 r.encTicks, [r.encValid], le32 r.estX,
    le32 r.estY, le32 r.estHeading, [r.wpIndex], le32 r.wpAngle, le16 r.steerUs, le16 r.throttleUs]

theorem recordTail_eq_flatten (r : SharedRecord) : recordTail r = (tailFields r).flatten := by
  unfold recordTail tailFields
  simp only [List.flatten_cons, List.flatten_nil, List.append_assoc, List.append_nil]

/-- Settles O60: the image is its five parts, one after the other. -/
theorem recordImageLayout : Obligations.RecordImageLayout := by
  unfold Obligations.RecordImageLayout
  intro b hok
  have hpay := recordPayload_le hok
  refine ⟨?_, ?_, fun i k => recordByte_raw, fun p hp => ?_, fun i => recordByte_padding, ?_⟩
  · simp only [recordImage_eq, List.length_append, length_recordHead, length_recordRaws, length_recordTail, length_recordPadding,
      length_le32]
    unfold Config.recordPayload at *
    omega
  · rw [recordImage_eq, List.take_left' (length_recordHead _)]
    rfl
  · obtain ⟨-, hle, hplace⟩ := placed_spec (p := p) (n := 0) (xs := tailFields b.record) hp
    rw [← recordTail_eq_flatten, length_recordTail, Nat.zero_add] at hle
    rw [← recordTail_eq_flatten, Nat.sub_zero] at hplace
    have hlen : p.2.length ≤ ((recordTail b.record).drop p.1).length := by rw [List.length_drop, length_recordTail]; omega
    rw [drop_recordImage, List.drop_append_of_le_length (by rw [length_recordTail]; omega), List.take_append_of_le_length hlen, hplace]
  · have hend : b.cfg.blockSize - 4 = 12 + b.cfg.nRaw * b.cfg.sentenceCap + (74 + (recordPadding b).length) := by
      rw [length_recordPadding]
      unfold Config.recordPayload at *
      omega
    rw [hend, drop_recordImage, ← List.drop_drop, List.drop_left' (length_recordTail _), List.drop_left' rfl]

end Sys2Proof.Machine
end

section
/-!
SUPPORT. Registers wider than a byte are reached one byte at a time (`20_memory.md` rule R67; the order of the bytes is log 8).
-/

namespace Sys2Proof.Machine

/-! ## The bytes of a word -/

/-- Byte `k` holds the bits from `8 * k` on. -/
theorem byteOf_getLsbD (v : BitVec w) (k : Nat) {i : Nat} (hi : i < 8) : (byteOf v k).getLsbD i = v.getLsbD (8 * k + i) := by
  rw [byteOf, BitVec.getLsbD_ofNat, Nat.testBit_shiftRight, decide_eq_true hi, Bool.true_and]
  rfl

/-- Byte `k` is digit `k` to the base 256. -/
theorem toNat_byteOf (v : BitVec w) (k : Nat) : (byteOf v k).toNat = v.toNat / 256 ^ k % 256 := by
  rw [byteOf, BitVec.toNat_ofNat, Nat.shiftRight_eq_div_pow, Nat.pow_mul]

theorem byteOf_mergeByte_same (k : Nat) (v old : BitVec w) : byteOf (mergeByte k v old) k = byteOf v k :=
  BitVec.eq_of_getLsbD_eq fun i hi => by
    rw [byteOf_getLsbD _ _ hi, byteOf_getLsbD _ _ hi, mergeByte_getLsbD, if_pos (by omega)]

theorem byteOf_mergeByte_ne {j k : Nat} (h : j ≠ k) (v old : BitVec w) : byteOf (mergeByte k v old) j = byteOf old j :=
  BitVec.eq_of_getLsbD_eq fun i hi => by
    rw [byteOf_getLsbD _ _ hi, byteOf_getLsbD _ _ hi, mergeByte_getLsbD, if_neg (by omega)]

/-- The first `n` bytes of a word, as the numbers that reading them yields. -/
def lowBytes (v : BitVec w) (n : Nat) : List Nat := (List.range n).map fun j => (byteOf v j).toNat

@[simp] theorem length_lowBytes (v : BitVec w) (n : Nat) : (lowBytes v n).length = n := by simp [lowBytes]

/-- The first `n` bytes of a word are the digits of its value below `256 ^ n`. -/
theorem ofDigits_lowBytes (v : BitVec w) (n : Nat) : Nat.ofDigits 256 (lowBytes v n) = v.toNat % 256 ^ n := by
  induction n with
  | zero => simp [lowBytes, Nat.mod_one]
  | succ n ih =>
    have hlast : lowBytes v (n + 1) = lowBytes v n ++ [(byteOf v n).toNat] := by simp [lowBytes, List.range_succ]
    rw [hlast, Nat.ofDigits_append, ih, length_lowBytes, Nat.ofDigits_singleton, toNat_byteOf, Nat.mod_pow_succ]

/-- All bytes of a word together are the word. -/
theorem ofNat_ofDigits_lowBytes (v : BitVec w) : BitVec.ofNat w (Nat.ofDigits 256 (lowBytes v (byteCount w))) = v := by
  have hlt : v.toNat < 256 ^ byteCount w := by
    calc v.toNat < 2 ^ w := v.isLt
      _ ≤ 2 ^ (8 * byteCount w) := Nat.pow_le_pow_right (by omega) (by unfold byteCount; omega)
      _ = 256 ^ byteCount w := Nat.pow_mul 2 8 _
  rw [ofDigits_lowBytes, Nat.mod_eq_of_lt hlt, BitVec.ofNat_toNat, BitVec.setWidth_eq]

/-! ## What is left of an access after some of its bytes -/

theorem Prog.bind_assoc (p : Prog α) (q : α → Prog β) (r : β → Prog γ) : (p.bind q).bind r = p.bind fun a => (q a).bind r := by
  induction p with
  | ret a => rfl
  | micro f k ih => exact congrArg (Prog.micro f) (funext ih)
  | need why k ih => exact congrArg (Prog.need why) ih

/-- After some bytes of a write the bytes above them are left to write. -/
theorem follow_writeFrom (r : Reg w) (v : BitVec w) (path : List Nat) (n k : Nat) :
    (writeFrom r v (path.length + n) k).follow path = writeFrom r v n (k + path.length) := by
  induction path generalizing k with
  | nil => rw [Prog.follow_nil, List.length_nil, Nat.zero_add, Nat.add_zero]
  | cons x path ih =>
    rw [List.length_cons, Nat.add_right_comm, ← Nat.add_assoc, Nat.add_right_comm k, ← ih (k + 1)]
    rfl

/-- After some bytes of a read the bytes above them are left to read, and those found are the low digits of the number read. -/
theorem follow_readFrom_bind (r : Reg w) (q : Nat → Prog α) (path : List Nat) (n k : Nat) :
    ((readFrom r (path.length + n) k).bind q).follow path
      = (readFrom r n (k + path.length)).bind fun hi => q (Nat.ofDigits 256 path + 256 ^ path.length * hi) := by
  induction path generalizing k q with
  | nil => simp
  | cons x path ih =>
    have hstep : ((readFrom r (path.length + n + 1) k).bind q).follow (x :: path)
        = ((readFrom r (path.length + n) (k + 1)).bind fun hi => q (x + 256 * hi)).follow path :=
      congrArg (Prog.follow · path) (Prog.bind_assoc (readFrom r (path.length + n) (k + 1)) (fun hi => .ret (x + 256 * hi)) q)
    have hdigits : ∀ hi, x + 256 * (Nat.ofDigits 256 path + 256 ^ path.length * hi)
        = Nat.ofDigits 256 (x :: path) + 256 ^ (path.length + 1) * hi := fun hi => by
      rw [Nat.ofDigits_cons]; ring
    rw [List.length_cons, Nat.add_right_comm, hstep, ih, Nat.add_assoc k, Nat.add_comm 1]
    simp only [hdigits]

/-- After `k` micro-steps of a write, byte `k` is the next one written. -/
theorem first_follow_writeReg (r : Reg w) (v : BitVec w) (b : Block) {path : List Nat} (h : path.length < byteCount w) :
    ((writeReg r v).follow path).first b = some (r.set (mergeByte path.length v (r.get b)) b, 0) := by
  obtain ⟨n, hn⟩ := Nat.exists_eq_add_of_lt h
  rw [writeReg, hn, Nat.add_assoc, follow_writeFrom, Nat.zero_add]
  rfl

theorem follow_writeReg_all (r : Reg w) (v : BitVec w) {path : List Nat} (h : path.length = byteCount w) :
    (writeReg r v).follow path = .ret () := by
  rw [writeReg, ← h]
  exact follow_writeFrom r v path 0 0

/-- After `k` micro-steps of a read, byte `k` is the next one read. -/
theorem first_follow_readReg (r : Reg w) (b : Block) {path : List Nat} (h : path.length < byteCount w) :
    ((readReg r).follow path).first b = some (b, (byteOf (r.get b) path.length).toNat) := by
  obtain ⟨n, hn⟩ := Nat.exists_eq_add_of_lt h
  rw [readReg, hn, Nat.add_assoc, follow_readFrom_bind, Nat.zero_add]
  rfl

/-- A read ends with the number whose digits its micro-steps found. -/
theorem follow_readReg_all (r : Reg w) {path : List Nat} (h : path.length = byteCount w) :
    (readReg r).follow path = .ret (BitVec.ofNat w (Nat.ofDigits 256 path)) := by
  rw [readReg, ← h]
  exact follow_readFrom_bind r _ path 0 0

/-- Settles O9: each access of a register is followed to its next byte, whatever comes between (R67, log 8). -/
theorem wideAccessesAreSingleBytes : Obligations.WideAccessesAreSingleBytes := by
  unfold Obligations.WideAccessesAreSingleBytes
  intro w r v b k hk
  have hwrite := first_follow_writeReg r v b (path := List.replicate k 0) (by rwa [List.length_replicate])
  have hread := first_follow_readReg r b (path := lowBytes (r.get b) k) (by rwa [length_lowBytes])
  have hvalue := follow_readReg_all r (length_lowBytes (r.get b) (byteCount w))
  rw [List.length_replicate] at hwrite
  rw [length_lowBytes] at hread
  rw [ofNat_ofDigits_lowBytes] at hvalue
  refine ⟨⟨_, hwrite, byteOf_mergeByte_same k v _, fun j hj => byteOf_mergeByte_ne hj v _⟩, ?_, hread, hvalue⟩
  rw [follow_writeReg_all r v (path := List.replicate ((w + 7) / 8) 0) List.length_replicate]
  rfl

end Sys2Proof.Machine
end

section
/-!
SUPPORT. The bytes of a word put together again (`20_memory.md` rules R62, R63).
-/

namespace Sys2Proof.Machine

/-- The last byte appended is byte 0. -/
theorem byteOf_append_zero (x : BitVec w) (b : Byte) : byteOf (x ++ b) 0 = b :=
  BitVec.eq_of_getLsbD_eq fun i hi => by
    rw [byteOf_getLsbD _ _ hi, Nat.mul_zero, Nat.zero_add, BitVec.getLsbD_append, if_pos hi]

/-- The bytes in front of the last one keep their order. -/
theorem byteOf_append_succ (x : BitVec w) (b : Byte) (k : Nat) : byteOf (x ++ b) (k + 1) = byteOf x k :=
  BitVec.eq_of_getLsbD_eq fun i hi => by
    rw [byteOf_getLsbD _ _ hi, byteOf_getLsbD _ _ hi, BitVec.getLsbD_append, if_neg (by omega)]
    congr 1
    omega

theorem byteOf_byte (b : Byte) : byteOf b 0 = b :=
  BitVec.eq_of_getLsbD_eq fun i hi => by rw [byteOf_getLsbD _ _ hi, Nat.mul_zero, Nat.zero_add]

@[simp] theorem be32_ofBe32 (a b c d : Byte) : be32 (ofBe32 a b c d) = [a, b, c, d] := by
  have h0 : byteOf (ofBe32 a b c d) 0 = d := byteOf_append_zero (a ++ b ++ c) d
  have h1 : byteOf (ofBe32 a b c d) 1 = c := (byteOf_append_succ (a ++ b ++ c) d 0).trans (byteOf_append_zero (a ++ b) c)
  have h2 : byteOf (ofBe32 a b c d) 2 = b :=
    calc byteOf (ofBe32 a b c d) 2 = byteOf (a ++ b ++ c) 1 := byteOf_append_succ (a ++ b ++ c) d 1
      _ = byteOf (a ++ b) 0 := byteOf_append_succ (a ++ b) c 0
      _ = b := byteOf_append_zero a b
  have h3 : byteOf (ofBe32 a b c d) 3 = a :=
    calc byteOf (ofBe32 a b c d) 3 = byteOf (a ++ b ++ c) 2 := byteOf_append_succ (a ++ b ++ c) d 2
      _ = byteOf (a ++ b) 1 := byteOf_append_succ (a ++ b) c 1
      _ = byteOf a 0 := byteOf_append_succ a b 0
      _ = a := byteOf_byte a
  rw [be32, h0, h1, h2, h3]

@[simp] theorem le32_ofLe32 (a b c d : Byte) : le32 (ofLe32 a b c d) = [a, b, c, d] :=
  congrArg List.reverse (be32_ofBe32 d c b a)

@[simp] theorem ofBe32_byteOf (v : U32) : ofBe32 (byteOf v 3) (byteOf v 2) (byteOf v 1) (byteOf v 0) = v :=
  BitVec.eq_of_getLsbD_eq fun i hi => by
    simp only [ofBe32, BitVec.getLsbD_append]
    split_ifs with h0 h1 h2 <;> rw [byteOf_getLsbD _ _ (by omega)] <;> congr 1 <;> omega

@[simp] theorem ofLe32_byteOf (v : U32) : ofLe32 (byteOf v 0) (byteOf v 1) (byteOf v 2) (byteOf v 3) = v :=
  ofBe32_byteOf v

end Sys2Proof.Machine
end

section
/-!
SUPPORT. Command frames on the wire (`30_encoding.md` rules R102, R103).
-/

namespace Sys2Proof.Machine

theorem typeRmc_length_of_ok {c : Config} (hc : c.ok = true) : c.typeRmc.length = 6 := by
  simp only [Config.ok, Config.okFormats, Bool.and_eq_true, beq_iff_eq] at hc
  exact hc.2.1

/-- The command header leaves the bits of the command index free (R102). -/
theorem cmdHeader_and_of_ok {c : Config} (hc : c.ok = true) : c.cmdHeader &&& 0x3F#8 = 0#8 := by
  simp only [Config.ok, Config.okFormats, Bool.and_eq_true, beq_iff_eq] at hc
  exact hc.2.2

/-- The mask of the command header, bit by bit. -/
theorem headerMask_getLsbD {i : Nat} (hi : i < 8) : (0xC0#8).getLsbD i = decide (6 ≤ i) := by
  revert i; decide

/-- The mask of the command index, bit by bit. -/
theorem indexMask_getLsbD {i : Nat} (hi : i < 8) : (0x3F#8).getLsbD i = decide (i < 6) := by
  revert i; decide

theorem cmdHeader_getLsbD_low {c : Config} (hc : c.ok = true) {i : Nat} (hi : i < 6) : c.cmdHeader.getLsbD i = false := by
  have hmask := congrArg (·.getLsbD i) (cmdHeader_and_of_ok hc)
  simpa [indexMask_getLsbD (show i < 8 by omega), hi] using hmask

/-- The first byte of a frame carries the header in its upper two bits. -/
theorem cmdByte_and_header {c : Config} (hc : c.ok = true) (k : BitVec 6) : cmdByte c k &&& 0xC0#8 = c.cmdHeader :=
  BitVec.eq_of_getLsbD_eq fun i hi => by
    rw [BitVec.getLsbD_and, headerMask_getLsbD hi]
    by_cases h : i < 6
    · simp [cmdHeader_getLsbD_low hc h, Nat.not_le.mpr h]
    · simp [cmdByte, Nat.not_lt.mp h]

/-- The first byte of a frame carries the command index in its lower six bits. -/
theorem cmdByte_truncate {c : Config} (hc : c.ok = true) (k : BitVec 6) : (cmdByte c k).truncate 6 = k :=
  BitVec.eq_of_getLsbD_eq fun i hi => by
    rw [cmdByte, BitVec.getLsbD_setWidth, BitVec.getLsbD_or, cmdHeader_getLsbD_low hc hi]
    simp [hi, show i < 8 by omega]

/-- A byte that carries the header is the first byte of the frame whose index it carries. -/
theorem cmdByte_of_and_header {c : Config} {b : Byte} (h : b &&& 0xC0#8 = c.cmdHeader) : cmdByte c (b.truncate 6) = b :=
  BitVec.eq_of_getLsbD_eq fun i hi => by
    rw [cmdByte, ← h, BitVec.getLsbD_or, BitVec.getLsbD_and, headerMask_getLsbD hi]
    by_cases hlow : i < 6
    · simp [hlow, hi]
    · simp [Nat.not_lt.mp hlow]

/-- The arm a frame names is encoded as that frame. -/
theorem encode_of_frameInstr {c : Config} {f : CmdFrame} {i : Instr} (h : frameInstr f = some i) :
    encode c i = ⟨.cmd48, frameBytes c f⟩ := by
  unfold frameInstr at h
  split_ifs at h with hf hf hf hf hf hf hf hf
  all_goals
    cases h
    exact congrArg (fun f => Wire.mk .cmd48 (frameBytes c f)) hf.symm

theorem frameInstr_frameReadblk (addr : U32) : frameInstr (frameReadblk addr) = some (.stoCmdReadblk addr) := by
  simp [frameInstr, frameReadblk, frameReset, frameIfcond, frameApp, frameOpcond, frameReadocr, frameReadcsd]

theorem frameInstr_frameWriteblk (addr : U32) : frameInstr (frameWriteblk addr) = some (.stoCmdWriteblk addr) := by
  simp [frameInstr, frameReadblk, frameWriteblk, frameReset, frameIfcond, frameApp, frameOpcond, frameReadocr, frameReadcsd]

/-- A frame that names an arm is read as that arm. -/
theorem decodeCmd48_frameBytes {c : Config} (hc : c.ok = true) {f : CmdFrame} {i : Instr} (hf : frameInstr f = some i)
    (rest : List Byte) : decodeCmd48 c (frameBytes c f ++ rest) = .ok (i, rest) := by
  simp [frameBytes, be32, decodeCmd48, cmdByte_and_header hc, cmdByte_truncate hc, hf]

end Sys2Proof.Machine
end

section
/-!
SUPPORT. What the decoders accept is an encoding (`30_encoding.md` rules R90, R92, R99, R101, R102, R108).
-/

namespace Sys2Proof.Machine

/-- A byte string is an instruction's encoding in a format, followed by what is left over. -/
def encodedAs (c : Config) (fmt : Format) (i : Instr) (bs rest : List Byte) : Prop :=
  (encode c i).fmt = fmt ∧ (encode c i).bytes ++ rest = bs

theorem encodedAs_of_encode {c : Config} {fmt : Format} {i : Instr} {bytes : List Byte} (h : encode c i = ⟨fmt, bytes⟩)
    (rest : List Byte) : encodedAs c fmt i (bytes ++ rest) rest := by
  simp [encodedAs, h]

/-! ## The operands of `OP8` -/

theorem takeBytes_ok_iff {n : Nat} {bs : List Byte} {p : List Byte × List Byte} :
    takeBytes n bs = .ok p ↔ p.1.length = n ∧ p.1 ++ p.2 = bs := by
  obtain ⟨front, back⟩ := p
  rw [takeBytes]
  split_ifs with hn
  · simp only [Except.ok.injEq, Prod.mk.injEq]
    constructor
    · rintro ⟨rfl, rfl⟩
      exact ⟨List.length_take_of_le hn, List.take_append_drop n bs⟩
    · rintro ⟨rfl, rfl⟩
      exact ⟨List.take_left, List.drop_left⟩
  · simp only [false_iff, not_and]
    rintro rfl rfl
    simp at hn

section operands

variable {c : Config} {code : Byte} {bs rest : List Byte} {i : Instr}

theorem encodedAs_of_decodePlain {j : Instr} (hj : encode c j = op8 code []) (h : decodePlain j bs = .ok (i, rest)) :
    encodedAs c .op8 i (code :: bs) rest := by
  cases h
  exact encodedAs_of_encode hj _

theorem encodedAs_of_decodeByte {f : Byte → Instr} (hf : ∀ b, encode c (f b) = op8 code [b])
    (h : decodeByte f bs = .ok (i, rest)) : encodedAs c .op8 i (code :: bs) rest := by
  unfold decodeByte at h
  split at h <;> cases h
  exact encodedAs_of_encode (hf _) _

theorem encodedAs_of_decodeLine {f : List Byte → Instr} (hf : ∀ line, encode c (f line) = op8 code line)
    (h : decodeLine c f bs = .ok (i, rest)) : encodedAs c .op8 i (code :: bs) rest := by
  rw [decodeLine] at h
  cases htake : takeBytes c.sentenceCap bs with
  | error e => rw [htake] at h; cases h
  | ok p =>
    rw [htake] at h
    cases h
    obtain ⟨-, hbs⟩ := takeBytes_ok_iff.mp htake
    rw [← hbs]
    exact encodedAs_of_encode (hf _) _

theorem encodedAs_of_decodeChannel {f : Channel → Instr} (hf : ∀ ch, encode c (f ch) = op8 code [channelByte ch])
    (h : decodeChannel f bs = .ok (i, rest)) : encodedAs c .op8 i (code :: bs) rest := by
  unfold decodeChannel at h
  split at h
  · split_ifs at h with h0 h1
    · cases h; rw [h0]; exact encodedAs_of_encode (hf .steering) _
    · cases h; rw [h1]; exact encodedAs_of_encode (hf .throttle) _
  · cases h

theorem encodedAs_of_decodeSample {f : BitVec 2 → Instr} (hf : ∀ ab, encode c (f ab) = op8 code [ab.zeroExtend 8])
    (h : decodeSample f bs = .ok (i, rest)) : encodedAs c .op8 i (code :: bs) rest := by
  unfold decodeSample at h
  split at h
  · next b tail =>
    split_ifs at h with hb
    cases h
    have hbyte : (b.truncate 2).zeroExtend 8 = b := by bv_omega
    have henc := hf (b.truncate 2)
    rw [hbyte] at henc
    exact encodedAs_of_encode henc _
  · cases h

theorem encodedAs_of_decodeU32 {f : U32 → Instr} (hf : ∀ v, encode c (f v) = op8 code (be32 v))
    (h : decodeU32 f bs = .ok (i, rest)) : encodedAs c .op8 i (code :: bs) rest := by
  unfold decodeU32 at h
  split at h <;> cases h
  simp [encodedAs, hf, op8]

theorem encodedAs_of_decodeF32 {f : F32 → Instr} (hf : ∀ v, encode c (f v) = op8 code (le32 v))
    (h : decodeF32 f bs = .ok (i, rest)) : encodedAs c .op8 i (code :: bs) rest := by
  unfold decodeF32 at h
  split at h <;> cases h
  simp [encodedAs, hf, op8]

theorem encodedAs_of_decodeEvent {f : Byte → Byte → Instr} (hf : ∀ st data, encode c (f st data) = op8 code [st, data])
    (h : decodeEvent f bs = .ok (i, rest)) : encodedAs c .op8 i (code :: bs) rest := by
  unfold decodeEvent at h
  split at h <;> cases h
  exact encodedAs_of_encode (hf _ _) _

theorem encodedAs_of_decodeCrossed (h : decodeCrossed bs = .ok (i, rest)) : encodedAs c .op8 i (0x60#8 :: bs) rest := by
  unfold decodeCrossed at h
  split at h <;> cases h
  simp [encodedAs, encode, op8]

theorem encodedAs_of_decodeAngle (h : decodeAngle bs = .ok (i, rest)) : encodedAs c .op8 i (0x62#8 :: bs) rest := by
  unfold decodeAngle at h
  split at h <;> cases h
  simp [encodedAs, encode, op8]

theorem encodedAs_of_decodeCommand (h : decodeCommand bs = .ok (i, rest)) : encodedAs c .op8 i (0x80#8 :: bs) rest := by
  unfold decodeCommand at h
  split at h
  · next k _ _ _ _ _ _ =>
    split_ifs at h with hk
    cases h
    have hbyte : (k.truncate 6).zeroExtend 8 = k := by bv_omega
    simp [encodedAs, encode, op8, hbyte]
  · cases h

end operands

/-! ## The formats -/

theorem encodedAs_of_decodeOp8Code {c : Config} {n : Nat} {bs rest : List Byte} {i : Instr}
    (h : decodeOp8Code c n bs = .ok (i, rest)) : encodedAs c .op8 i (BitVec.ofNat 8 n :: bs) rest := by
  unfold decodeOp8Code at h
  split at h
  case h_1 | h_2 | h_3 | h_4 | h_5 | h_7 | h_12 | h_14 | h_16 | h_17 | h_19 | h_21 | h_23 | h_26 | h_27 | h_29 | h_30 | h_32 =>
    exact encodedAs_of_decodePlain rfl h
  case h_6 | h_22 | h_24 => exact encodedAs_of_decodeByte (fun _ => rfl) h
  case h_8 | h_9 | h_10 | h_11 => exact encodedAs_of_decodeLine (fun _ => rfl) h
  case h_13 => exact encodedAs_of_decodeEvent (fun _ _ => rfl) h
  case h_15 => exact encodedAs_of_decodeSample (fun _ => rfl) h
  case h_18 => exact encodedAs_of_decodeCrossed h
  case h_20 => exact encodedAs_of_decodeAngle h
  case h_25 => exact encodedAs_of_decodeF32 (fun _ => rfl) h
  case h_28 => exact encodedAs_of_decodeCommand h
  case h_31 => exact encodedAs_of_decodeU32 (fun _ => rfl) h
  case h_33 | h_34 | h_35 => exact encodedAs_of_decodeChannel (fun _ => rfl) h
  case h_36 => cases h

theorem encodedAs_of_decodeOp8 {c : Config} {bs rest : List Byte} {i : Instr} (h : decodeOp8 c bs = .ok (i, rest)) :
    encodedAs c .op8 i bs rest := by
  cases bs with
  | nil => cases h
  | cons code operands =>
    simpa using encodedAs_of_decodeOp8Code h

theorem eq_startMarker_of_rxClass {b : Byte} (h : rxClass b = .start) : b = startMarker := by
  unfold rxClass at h
  split_ifs at h with hb
  exact hb

theorem eq_terminator_of_rxClass {b : Byte} (h : rxClass b = .term) : b = terminator := by
  unfold rxClass at h
  split_ifs at h with _ hb
  exact hb

theorem encodedAs_of_decodeRx {c : Config} {bs rest : List Byte} {i : Instr} (h : decodeRx bs = .ok (i, rest)) :
    encodedAs c .rxByte i bs rest := by
  unfold decodeRx at h
  split at h
  · split at h <;> cases h
    · next hb => rw [eq_startMarker_of_rxClass hb]; exact encodedAs_of_encode rfl _
    · next hb => rw [eq_terminator_of_rxClass hb]; exact encodedAs_of_encode rfl _
    · exact encodedAs_of_encode rfl _
  · cases h

theorem encodedAs_of_decodeType6 {c : Config} {bs rest : List Byte} {i : Instr} (h : decodeType6 c bs = .ok (i, rest)) :
    encodedAs c .type6 i bs rest := by
  rw [decodeType6] at h
  cases htake : takeBytes c.sentenceCap bs with
  | error e => rw [htake] at h; cases h
  | ok p =>
    obtain ⟨line, back⟩ := p
    obtain ⟨-, rfl⟩ := takeBytes_ok_iff.mp htake
    rw [htake] at h
    simp only [Except.map, Except.ok.injEq] at h
    split_ifs at h with hgga hrmc <;> cases h
    · exact encodedAs_of_encode (by rw [encode, ← hgga, List.take_append_drop]) _
    · exact encodedAs_of_encode (by rw [encode, ← hrmc, List.take_append_drop]) _
    · exact encodedAs_of_encode rfl _

theorem encode_twInstr (c : Config) (k : TwClass) (st data : Byte) : encode c (twInstr k st data) = ⟨.twEvt, [st, data]⟩ := by
  cases k <;> rfl

theorem encodedAs_of_decodeTwEvt {c : Config} {bs rest : List Byte} {i : Instr} (h : decodeTwEvt c bs = .ok (i, rest)) :
    encodedAs c .twEvt i bs rest := by
  unfold decodeTwEvt at h
  split at h <;> cases h
  exact encodedAs_of_encode (encode_twInstr c _ _ _) _

theorem encodedAs_of_decodeQCode {c : Config} {bs rest : List Byte} {i : Instr} (h : decodeQCode bs = .ok (i, rest)) :
    encodedAs c .qCode i bs rest := by
  unfold decodeQCode at h
  split at h
  · split_ifs at h with hb hb hb hb
    all_goals
      cases h
      rw [hb]
      exact encodedAs_of_encode rfl _
  · cases h

theorem encodedAs_of_decodeCmd48 {c : Config} {bs rest : List Byte} {i : Instr} (h : decodeCmd48 c bs = .ok (i, rest)) :
    encodedAs c .cmd48 i bs rest := by
  unfold decodeCmd48 at h
  split at h
  · split_ifs at h with hheader
    split at h <;> cases h
    next hframe =>
      have henc := encode_of_frameInstr (c := c) hframe
      rw [frameBytes, be32_ofBe32, cmdByte_of_and_header hheader] at henc
      exact encodedAs_of_encode henc _
  · cases h

/-- Settles O2: format by format, what the format's decoder accepts is an encoding. -/
theorem encodeInvertsDecode : Obligations.EncodeInvertsDecode := by
  unfold Obligations.EncodeInvertsDecode
  intro c fmt bs i rest _ h
  cases fmt with
  | op8 => exact encodedAs_of_decodeOp8 h
  | rxByte => exact encodedAs_of_decodeRx h
  | type6 => exact encodedAs_of_decodeType6 h
  | twEvt => exact encodedAs_of_decodeTwEvt h
  | qCode => exact encodedAs_of_decodeQCode h
  | cmd48 => exact encodedAs_of_decodeCmd48 h

end Sys2Proof.Machine
end

section
/-!
SUPPORT. An encoding is decoded to the instruction it encodes (`30_encoding.md` rules R90, R92, R99, R101, R103, R108).
-/

namespace Sys2Proof.Machine

/-! ## The operands of `OP8` -/

theorem takeBytes_append {n : Nat} {front : List Byte} (h : front.length = n) (back : List Byte) :
    takeBytes n (front ++ back) = .ok (front, back) :=
  takeBytes_ok_iff.mpr ⟨h, rfl⟩

theorem decodeLine_append {c : Config} {line : List Byte} (h : Instr.lineOk c line = true) (f : List Byte → Instr) (rest : List Byte) :
    decodeLine c f (line ++ rest) = .ok (f line, rest) := by
  rw [decodeLine, takeBytes_append (Laws.EncodedLength.length_of_lineOk h)]
  rfl

theorem decodeChannel_channelByte (f : Channel → Instr) (ch : Channel) (rest : List Byte) :
    decodeChannel f (channelByte ch :: rest) = .ok (f ch, rest) := by
  cases ch <;> rfl

theorem decodeSample_zeroExtend (f : BitVec 2 → Instr) (ab : BitVec 2) (rest : List Byte) :
    decodeSample f (ab.zeroExtend 8 :: rest) = .ok (f ab, rest) := by
  have hlt : (ab.zeroExtend 8).toNat < 4 := by bv_omega
  have hback : (ab.zeroExtend 8).truncate 2 = ab := by bv_omega
  rw [decodeSample, if_pos hlt, hback]

theorem decodeU32_be32 (f : U32 → Instr) (v : U32) (rest : List Byte) : decodeU32 f (be32 v ++ rest) = .ok (f v, rest) := by
  simp [be32, decodeU32]

theorem decodeF32_le32 (f : F32 → Instr) (v : F32) (rest : List Byte) : decodeF32 f (le32 v ++ rest) = .ok (f v, rest) := by
  simp [le32, decodeF32]

theorem decodeCrossed_le32 (w : Byte) (px py : F32) (rest : List Byte) :
    decodeCrossed (w :: (le32 px ++ le32 py) ++ rest) = .ok (.gdeCrossed w px py, rest) := by
  simp [le32, decodeCrossed]

theorem decodeAngle_le32 (px py heading : F32) (rest : List Byte) :
    decodeAngle (le32 px ++ le32 py ++ le32 heading ++ rest) = .ok (.gdeAngle px py heading, rest) := by
  simp [le32, decodeAngle]

theorem decodeCommand_be32 (cmd : BitVec 6) (arg : U32) (trail : Byte) (rest : List Byte) :
    decodeCommand (cmd.zeroExtend 8 :: (be32 arg ++ [trail]) ++ rest) = .ok (.stoCmd cmd arg trail, rest) := by
  have hlt : (cmd.zeroExtend 8).toNat < 64 := by bv_omega
  have hback : (cmd.zeroExtend 8).truncate 6 = cmd := by bv_omega
  simp only [be32, List.cons_append, List.nil_append, decodeCommand, if_pos hlt, hback, ofBe32_byteOf]

/-! ## Classes of bytes, lines and events -/

theorem decodeRx_data {b : Byte} (h : rxClass b = .data) (rest : List Byte) : decodeRx (b :: rest) = .ok (.frmRxData b, rest) := by
  rw [decodeRx, h]

/-- A line of `SENTENCE_CAP` bytes is read as the arm its first six bytes name. -/
theorem decodeType6_append {c : Config} {line : List Byte} (h : line.length = c.sentenceCap) (rest : List Byte) :
    decodeType6 c (line ++ rest) = .ok (if line.take 6 = typeGga then (.prsParseGga (line.drop 6), rest)
      else if line.take 6 = c.typeRmc then (.prsParseRmc (line.drop 6), rest) else (.prsParseIgnore line, rest)) := by
  rw [decodeType6, takeBytes_append h]
  rfl

theorem decodeType6_gga {c : Config} {fields : List Byte} (h : fields.length + 6 = c.sentenceCap) (rest : List Byte) :
    decodeType6 c (typeGga ++ fields ++ rest) = .ok (.prsParseGga fields, rest) := by
  have hlen : typeGga.length = 6 := rfl
  rw [decodeType6_append (by rw [List.length_append]; omega), List.take_left' hlen, List.drop_left' hlen, if_pos rfl]

theorem decodeType6_rmc {c : Config} {fields : List Byte} (h : fields.length + 6 = c.sentenceCap) (hlen : c.typeRmc.length = 6)
    (hne : c.typeRmc ≠ typeGga) (rest : List Byte) : decodeType6 c (c.typeRmc ++ fields ++ rest) = .ok (.prsParseRmc fields, rest) := by
  rw [decodeType6_append (by rw [List.length_append]; omega), List.take_left' hlen, List.drop_left' hlen, if_neg hne, if_pos rfl]

theorem decodeType6_ignore {c : Config} {line : List Byte} (h : line.length = c.sentenceCap) (hgga : line.take 6 ≠ typeGga)
    (hrmc : line.take 6 ≠ c.typeRmc) (rest : List Byte) : decodeType6 c (line ++ rest) = .ok (.prsParseIgnore line, rest) := by
  rw [decodeType6_append h, if_neg hgga, if_neg hrmc]

theorem decodeTwEvt_of_twClass {c : Config} {st : Byte} {k : TwClass} (h : (twClass c.twCodes st == k) = true) (data : Byte)
    (rest : List Byte) : decodeTwEvt c (st :: data :: rest) = .ok (twInstr k st data, rest) := by
  rw [decodeTwEvt, beq_iff_eq.mp h]

/-- Settles O1: an instruction without a condition on its operands is read back by evaluation, each other one by the lemma about
its operand, its class or its frame. -/
theorem decodeInvertsEncode : Obligations.DecodeInvertsEncode := by
  unfold Obligations.DecodeInvertsEncode
  intro c i rest hc hw
  cases i with
  | prsChk | prsParse | prsGga | prsRmc => exact decodeLine_append hw _ rest
  | encEdge ab => exact decodeSample_zeroExtend .encEdge ab rest
  | gdeCrossed w px py => exact decodeCrossed_le32 w px py rest
  | gdeAngle px py heading => exact decodeAngle_le32 px py heading rest
  | actSteer a => exact decodeF32_le32 .actSteer a rest
  | stoCmd cmd arg trail => exact decodeCommand_be32 cmd arg trail rest
  | stoReadblk addr => exact decodeU32_be32 .stoReadblk addr rest
  | plsStart ch | plsMatch ch | plsTick ch => exact decodeChannel_channelByte _ ch rest
  | frmRxData b => exact decodeRx_data (beq_iff_eq.mp hw) rest
  | prsParseGga fields => exact decodeType6_gga (beq_iff_eq.mp hw) rest
  | prsParseRmc fields =>
    simp only [Instr.wellFormed, Bool.and_eq_true, beq_iff_eq, bne_iff_ne] at hw
    obtain ⟨⟨hfields, htype⟩, hne⟩ := hw
    exact decodeType6_rmc hfields htype hne rest
  | prsParseIgnore line =>
    simp only [Instr.wellFormed, Bool.and_eq_true, bne_iff_ne] at hw
    obtain ⟨⟨hline, hgga⟩, hrmc⟩ := hw
    exact decodeType6_ignore (Laws.EncodedLength.length_of_lineOk hline) hgga hrmc rest
  | hdgEvtStart st data | hdgEvtRepstart st data | hdgEvtSlawAck st data | hdgEvtTxdataAck st data | hdgEvtSlarAck st data
  | hdgEvtRxdataAck st data | hdgEvtRxdataNack st data | hdgEvtOther st data => exact decodeTwEvt_of_twClass hw data rest
  | stoCmdReset | stoCmdIfcond | stoCmdApp | stoCmdOpcond | stoCmdReadocr | stoCmdReadcsd =>
    exact decodeCmd48_frameBytes hc rfl rest
  | stoCmdReadblk addr => exact decodeCmd48_frameBytes hc (frameInstr_frameReadblk addr) rest
  | stoCmdWriteblk addr => exact decodeCmd48_frameBytes hc (frameInstr_frameWriteblk addr) rest
  | _ => rfl

end Sys2Proof.Machine
end

section
/-!
SUPPORT. Reserved codes and sample words (`30_encoding.md` rules R90, R99, R101, R103, R108, R109).
-/

namespace Sys2Proof.Machine

/-! ## Reserved codes -/

/-- The codes of R108. -/
def operationCodes : List Nat :=
  [0x00, 0x01, 0x02, 0x03, 0x04, 0x10, 0x11, 0x20, 0x21, 0x22, 0x23, 0x30, 0x31, 0x32, 0x40, 0x41, 0x50,
    0x60, 0x61, 0x62, 0x63, 0x70, 0x71, 0x72, 0x73, 0x74, 0x75, 0x80, 0x81, 0x82, 0x83, 0x84, 0x90, 0x91, 0x92]

/-- A code that the table does not list selects no operation. -/
theorem decodeOp8Code_of_not_mem {n : Nat} (h : n ∉ operationCodes) (c : Config) (bs : List Byte) :
    decodeOp8Code c n bs = .error .reservedCode := by
  unfold decodeOp8Code
  split
  case h_36 => rfl
  all_goals exact absurd (by decide) h

/-- An entry that the decoder refuses is refused by the fetch. -/
theorem runWire_of_error {s : State} {w : Wire} {e : DecodeError} (script : List Input)
    (hd : decode s.blk.cfg w.fmt w.bytes = .error e) : runWire w script s = .refused .reservedEncoding := by
  rw [runWire, hd]

/-- Settles O4: the decoder refuses the code, and so does the fetch of its entry. -/
theorem reservedCodesRefused : Obligations.ReservedCodesRefused := by
  unfold Obligations.ReservedCodesRefused
  intro s code bs script hcfg hcode hs
  have hdecode : decode s.blk.cfg .op8 (code :: bs) = .error .reservedCode := decodeOp8Code_of_not_mem hcode s.blk.cfg bs
  exact ⟨hdecode, (step_wire hcfg hs).trans (runWire_of_error script hdecode)⟩

/-! ## Sample words -/

/-- Settles O3: each word is decoded by evaluation. -/
theorem decodeSampleWords : Obligations.DecodeSampleWords :=
  ⟨rfl, rfl, rfl, rfl, rfl, rfl, rfl, rfl, rfl, rfl, rfl⟩

end Sys2Proof.Machine
end

section
/-!
SUPPORT. The fields of a line (`30_encoding.md` rule R95).
-/

namespace Sys2Proof.Machine

/-- Up to the next comma, what follows the `k`-th comma is piece `k` between the commas. -/
theorem takeWhile_afterCommas (k : Nat) (bs : List Byte) :
    (afterCommas k bs).takeWhile (fun b => b != fieldDelim) = (bs.splitOn fieldDelim).getD k [] := by
  induction bs generalizing k with
  | nil => cases k <;> simp [afterCommas]
  | cons b rest ih =>
    have hpieces : rest.splitOn fieldDelim ≠ [] := List.splitOn_ne_nil fieldDelim rest
    rw [List.splitOn_cons_eq_if_modifyHead]
    by_cases hb : b = fieldDelim
    · cases k with
      | zero => simp [afterCommas, hb]
      | succ k => simpa [afterCommas, hb] using ih k
    · obtain ⟨piece, pieces, hsplit⟩ := List.exists_cons_of_ne_nil hpieces
      cases k with
      | zero => simpa [afterCommas, hb, hsplit] using ih 0
      | succ k => simpa [afterCommas, hb, hsplit] using ih (k + 1)

/-- The three bytes that end a field may be looked for in two rounds, the comma first. -/
theorem takeWhile_fieldEnds (bs : List Byte) :
    (bs.takeWhile fun b => b != fieldDelim && b != chkDelim && b != carriageReturn)
      = (bs.takeWhile fun b => b != fieldDelim).takeWhile fun b => b != chkDelim && b != carriageReturn := by
  rw [List.takeWhile_takeWhile]
  refine congrArg (bs.takeWhile ·) (funext fun b => ?_)
  rw [Bool.decide_and, Bool.decide_coe, Bool.decide_coe, Bool.and_assoc, Bool.and_comm]

/-- Settles O33: the comma is looked for first, then the other two ends. -/
theorem prsFieldSplitting : Obligations.PrsFieldSplitting := by
  unfold Obligations.PrsFieldSplitting
  intro line k
  have hpiece := takeWhile_afterCommas k (lineContent line)
  exact (takeWhile_fieldEnds _).trans (congrArg (List.takeWhile _) hpiece)

end Sys2Proof.Machine
end

section
/-!
SUPPORT. The periodic scheduler, branch by branch (`40_scheduler.md` rules R121 to R124, R126, R127).
-/

namespace Sys2Proof.Machine

/-! ## Outcomes and events -/

/-- An operation is known by what it makes of the block it is given. -/
theorem done_eq_next {f g : Block → Block} {s : State} (h : f s.blk = g s.blk) : done f s = .next (s.mapBlk g) := by
  rw [done, State.mapBlk, h, State.mapBlk]

/-- An operation that leaves its block as it is leaves the state as it is. -/
theorem done_eq_self {f : Block → Block} {s : State} (h : f s.blk = s.blk) : done f s = .next s :=
  done_eq_next (g := id) h

theorem raiseEvent_of_enabled (e : Event) {b : Block} (h : b.irq.enabled = true) :
    raiseEvent e b = { b with irq := { b.irq with pending := b.irq.pending ++ [e] } } := if_pos h

theorem raiseEvent_of_disabled (e : Event) {b : Block} (h : b.irq.enabled = false) : raiseEvent e b = b :=
  if_neg (Bool.eq_false_iff.mp h)

theorem cancelEvent_eq (e : Event) (b : Block) :
    cancelEvent e b = { b with irq := { b.irq with pending := b.irq.pending.filter (· ≠ e) } } := by
  have hpred : (· != e) = fun x : Event => decide (x ≠ e) := funext fun _ => decide_not.symm
  rw [cancelEvent, hpred]

/-! ## SCH.BEGIN -/

theorem exec_schBegin (s : State) : exec .schBegin s = done schBegin s := rfl

theorem schBegin_of_runEn {b : Block} (h : b.env.runEn = true) :
    schBegin b =
      { b with sch := { count := 0, overrun := false }, record := { b.record with cycle := b.record.cycle + 1#32 }, phase := 1#4
               irq := { b.irq with pending := b.irq.pending.filter (· ≠ .ovf) } } := by
  rw [schBegin, if_pos h, cancelEvent_eq, setPhase]

theorem schBegin_of_not_runEn {b : Block} (h : b.env.runEn = false) : schBegin b = b :=
  if_neg (Bool.eq_false_iff.mp h)

/-- Settles O21: `schBegin` branches on `run_en` alone. -/
theorem schBeginStartsCycle : Obligations.SchBeginStartsCycle := by
  unfold Obligations.SchBeginStartsCycle
  intro s
  rw [exec_schBegin]
  exact ⟨fun hrun => done_eq_next (schBegin_of_runEn hrun), fun hstop => done_eq_self (schBegin_of_not_runEn hstop)⟩

/-! ## SCH.WAIT -/

theorem exec_schWait (s : State) : exec .schWait s = done schWait s := rfl

theorem schWait_of_overrun {b : Block} (h : b.sch.overrun = true) :
    schWait b = { b with record := { b.record with status := b.record.status ||| 0x100#32 }, phase := 0#4 } := if_pos h

theorem schWait_of_reached {b : Block} (ho : b.sch.overrun = false) (hc : b.cfg.cycleTicks ≤ b.sch.count) :
    schWait b = { b with phase := 0#4 } := by
  rw [schWait, if_neg (Bool.eq_false_iff.mp ho), if_pos hc, setPhase]

theorem schWait_of_lt {b : Block} (ho : b.sch.overrun = false) (hc : b.sch.count < b.cfg.cycleTicks) : schWait b = b := by
  rw [schWait, if_neg (Bool.eq_false_iff.mp ho), if_neg (Nat.not_le.mpr hc)]

/-- Settles O22: the three branches of `schWait`, the overrun first. -/
theorem schWaitEndsCycle : Obligations.SchWaitEndsCycle := by
  unfold Obligations.SchWaitEndsCycle
  intro s
  rw [exec_schWait]
  exact ⟨fun ho => done_eq_next (schWait_of_overrun ho), fun ho hc => done_eq_next (schWait_of_reached ho hc),
    fun ho hc => done_eq_self (schWait_of_lt ho hc)⟩

/-! ## SCH.TICK, SCH.OVF and SCH.STCLR -/

theorem exec_schTick (s : State) : exec .schTick s = done schTick s := rfl

theorem exec_schOvf (s : State) : exec .schOvf s = done schOvf s := rfl

theorem exec_schStclr (s : State) : exec .schStclr s = complete schStclrProg s := rfl

theorem schTick_of_ne {b : Block} (h : b.sch.count ≠ 2 ^ b.cfg.schedBits - 1) :
    schTick b = { b with sch := { b.sch with count := b.sch.count + 1 } } := if_neg h

theorem schTick_of_eq {b : Block} (h : b.sch.count = 2 ^ b.cfg.schedBits - 1) :
    schTick b = raiseEvent .ovf { b with sch := { b.sch with count := 0 } } := if_pos h

theorem schOvf_eq (b : Block) :
    schOvf b =
      { b with sch := { b.sch with overrun := true }, irq := { b.irq with pending := b.irq.pending.erase .ovf } } := rfl

/-- The four byte writes of `status` together are one change. -/
theorem run_schStclrProg (b : Block) :
    (schStclrProg.run b).2 = { b with record := { b.record with status := 0#32 }, phase := 9#4 } := by
  rw [schStclrProg, Prog.run_andThen, run_write_statusReg, run_endPhase, setPhase]

/-- Settles O23: the tick branches on the counter, and the event its wrap raises on the sources; the other two have one case. -/
theorem schTickOvfStclr : Obligations.SchTickOvfStclr := by
  unfold Obligations.SchTickOvfStclr
  intro s
  rw [exec_schTick, exec_schOvf, exec_schStclr]
  refine ⟨fun hne => ?below, fun hwrap hon => ?wrapEnabled, fun hwrap hoff => ?wrapDisabled, ?ovf, ?stclr⟩
  case below => exact done_eq_next (schTick_of_ne hne)
  case wrapEnabled => exact done_eq_next ((schTick_of_eq hwrap).trans (raiseEvent_of_enabled .ovf hon))
  case wrapDisabled => exact done_eq_next ((schTick_of_eq hwrap).trans (raiseEvent_of_disabled .ovf hoff))
  case ovf => exact done_eq_next (schOvf_eq s.blk)
  case stclr => exact done_eq_next (run_schStclrProg s.blk)

end Sys2Proof.Machine
end

section
/-!
SUPPORT. The framer's handler, step by step (`41_framer.md` rules R136 to R140).
-/

namespace Sys2Proof.Machine

/-! ## The claim (R137) -/

/-- Slot `k` claimed, the cursor at its start. -/
def claimSlot (k : Nat) (b : Block) : Block :=
  { b with frm := { b.frm with slots := b.frm.slots.set k .claimed, cur := some k, w := 0, dropping := false } }

theorem firstFree_eq_some {slots : List SlotStatus} {k : Nat} (hk : slots[k]? = some .free)
    (hfirst : ∀ j, j < k → slots[j]? ≠ some .free) : firstFree slots = some k := by
  obtain ⟨hlt, hfree⟩ := List.getElem?_eq_some_iff.mp hk
  refine List.findIdx?_eq_some_iff_getElem.mpr ⟨hlt, by simp [hfree], fun j hj => ?_⟩
  have hne := hfirst j hj
  rw [List.getElem?_eq_getElem (hj.trans hlt)] at hne
  simpa using hne

theorem firstFree_eq_none {slots : List SlotStatus} (h : ∀ j : Nat, slots[j]? ≠ some .free) : firstFree slots = none := by
  refine List.findIdx?_eq_none_iff.mpr fun st hst => ?_
  obtain ⟨j, hj⟩ := List.mem_iff_getElem?.mp hst
  have hne := h j
  rw [hj] at hne
  simpa using hne

theorem rxClaim_of_held {b : Block} {k : Nat} (hcur : b.frm.cur = some k) : rxClaim b = (b, true) := by
  rw [rxClaim, hcur]

theorem rxClaim_of_firstFree {b : Block} {k : Nat} (hcur : b.frm.cur = none) (hk : firstFree b.frm.slots = some k) :
    rxClaim b = (claimSlot k b, true) := by
  simp only [rxClaim, hcur, hk, claimSlot]

theorem rxClaim_of_noneFree {b : Block} (hcur : b.frm.cur = none) (hk : firstFree b.frm.slots = none) :
    rxClaim b = ({ b with frm := { b.frm with nobuf := true } }, false) := by
  simp only [rxClaim, hcur, hk]

/-! ## A byte received (R136) -/

variable {arm : Block → Except Fault Block}

/-- With a slot held the byte goes to its arm. -/
theorem rxReceive_of_held {b : Block} {k : Nat} (v : Byte) (hcur : b.frm.cur = some k) :
    rxReceive v arm b = arm (consumeEvent (.rx v) b) := by
  rw [rxReceive, rxClaim_of_held (b := consumeEvent _ b) hcur]
  rfl

/-- With a slot free the byte is received as if that slot were held. -/
theorem rxReceive_of_firstFree {b : Block} {k : Nat} (v : Byte) (hcur : b.frm.cur = none) (hk : firstFree b.frm.slots = some k) :
    rxReceive v arm b = rxReceive v arm (claimSlot k b) := by
  rw [rxReceive_of_held (b := claimSlot k b) v rfl, rxReceive, rxClaim_of_firstFree (b := consumeEvent _ b) hcur hk]
  rfl

/-- With no slot free the byte is dropped. -/
theorem rxReceive_of_noneFree {b : Block} (v : Byte) (hcur : b.frm.cur = none) (hk : firstFree b.frm.slots = none) :
    rxReceive v arm b =
      .ok { b with frm := { b.frm with nobuf := true }, irq := { b.irq with pending := b.irq.pending.erase (.rx v) } } := by
  rw [rxReceive, rxClaim_of_noneFree (b := consumeEvent _ b) hcur hk]
  rfl

theorem exec_frmRx (v : Byte) (s : State) : exec (.frmRx v) s = doneOrFault (rxReceive v (rxArm v) s.blk) s := rfl

theorem exec_frmRxStart (s : State) : exec .frmRxStart s = doneOrFault (rxReceive startMarker rxStartArm s.blk) s := rfl

theorem exec_frmRxTerm (s : State) : exec .frmRxTerm s = doneOrFault (rxReceive terminator rxComplete s.blk) s := rfl

theorem exec_frmRxData (v : Byte) (s : State) : exec (.frmRxData v) s = doneOrFault (rxReceive v (rxDataArm v) s.blk) s := rfl

theorem rxArm_startMarker : rxArm startMarker = rxStartArm := rfl

theorem rxArm_terminator : rxArm terminator = rxComplete := rfl

theorem rxArm_of_data {v : Byte} (h : rxClass v = .data) : rxArm v = rxDataArm v := by
  rw [rxArm, h]

theorem rxClass_eq_data {v : Byte} (hs : v ≠ startMarker) (ht : v ≠ terminator) : rxClass v = .data := by
  rw [rxClass, if_neg hs, if_neg ht]

theorem ne_terminator_of_rxClass {v : Byte} (h : rxClass v = .data) : v ≠ terminator := by
  rintro rfl
  exact absurd h (by decide)

/-- The class of the byte selects the arm, so the operation and the arm as an instruction do the same. -/
theorem exec_start_eq {i : Instr} (hi : i ∈ [Instr.frmRx startMarker, .frmRxStart]) (s : State) :
    exec i s = doneOrFault (rxReceive startMarker rxStartArm s.blk) s := by
  rcases List.mem_pair.mp hi with rfl | rfl
  · rw [exec_frmRx, rxArm_startMarker]
  · rw [exec_frmRxStart]

theorem exec_term_eq {i : Instr} (hi : i ∈ [Instr.frmRx terminator, .frmRxTerm]) (s : State) :
    exec i s = doneOrFault (rxReceive terminator rxComplete s.blk) s := by
  rcases List.mem_pair.mp hi with rfl | rfl
  · rw [exec_frmRx, rxArm_terminator]
  · rw [exec_frmRxTerm]

theorem exec_data_eq {i : Instr} {v : Byte} (hv : rxClass v = .data) (hi : i ∈ [Instr.frmRx v, .frmRxData v]) (s : State) :
    exec i s = doneOrFault (rxReceive v (rxDataArm v) s.blk) s := by
  rcases List.mem_pair.mp hi with rfl | rfl
  · rw [exec_frmRx, rxArm_of_data hv]
  · rw [exec_frmRxData]

/-- The instructions that receive a byte, and the byte. -/
def receptions (v : Byte) : List (Instr × Byte) :=
  [(.frmRx v, v), (.frmRxStart, startMarker), (.frmRxTerm, terminator), (.frmRxData v, v)]

/-- Each of them receives its byte through some arm. -/
theorem exec_reception {p : Instr × Byte} {v : Byte} (hp : p ∈ receptions v) :
    ∃ arm, ∀ s, exec p.1 s = doneOrFault (rxReceive p.2 arm s.blk) s := by
  simp only [receptions, List.mem_cons, List.not_mem_nil, or_false] at hp
  rcases hp with rfl | rfl | rfl | rfl
  · exact ⟨_, exec_frmRx v⟩
  · exact ⟨_, exec_frmRxStart⟩
  · exact ⟨_, exec_frmRxTerm⟩
  · exact ⟨_, exec_frmRxData v⟩

/-- Settles O24: the claim comes before the arm, whichever arm it is. -/
theorem frmRxClaimsFirstFreeSlot : Obligations.FrmRxClaimsFirstFreeSlot := by
  unfold Obligations.FrmRxClaimsFirstFreeSlot
  intro s v hcur
  refine ⟨fun k hk hfirst i hi => ?_, fun hnone p hp => ?_⟩
  · obtain ⟨p, hp, rfl⟩ : ∃ p ∈ receptions v, p.1 = i := List.mem_map.mp hi
    obtain ⟨arm, hexec⟩ := exec_reception hp
    rw [hexec, hexec, rxReceive_of_firstFree p.2 hcur (firstFree_eq_some hk hfirst)]
    rfl
  · obtain ⟨arm, hexec⟩ := exec_reception hp
    rw [hexec, rxReceive_of_noneFree p.2 hcur (firstFree_eq_none hnone)]
    rfl

end Sys2Proof.Machine
end

section
/-!
SUPPORT. The arms of the framer's handler in a held slot (`41_framer.md` rules R138 to R140).
-/

namespace Sys2Proof.Machine

/-! ## Each step where its slot is held -/

/-- The framer with its line begun again; the flag tells that something was overwritten (R138). -/
def Framer.restarted (f : Framer) : Framer := { f with restart := f.restart || decide (f.w ≠ 0), w := 0 }

/-- The framer after a byte is stored: the cursor moves by one, or stays at the last place with the overflow flag (R139). -/
def Framer.appended (c : Config) (f : Framer) : Framer :=
  if f.w = c.sentenceCap - 2 then { f with overflow := true, dropping := f.dropping || c.overflowLatch } else { f with w := f.w + 1 }

theorem Framer.appended_restarted {c : Config} (f : Framer) (hcap : 8 ≤ c.sentenceCap) :
    f.restarted.appended c = { f with restart := f.restart || decide (f.w ≠ 0), w := 1 } :=
  if_neg (show 0 ≠ c.sentenceCap - 2 by omega)

theorem rxRestart_eq (b : Block) : rxRestart b = { b with frm := b.frm.restarted } := by
  by_cases hw : b.frm.w = 0
  · have hsame : b.frm.restarted = b.frm := by
      rw [Framer.restarted, decide_eq_false (not_not.mpr hw), Bool.or_false, ← hw]
    rw [rxRestart, if_neg (not_not.mpr hw), hsame]
  · rw [rxRestart, if_pos hw, Framer.restarted, decide_eq_true hw, Bool.or_true]

theorem rxAdvance_eq {b : Block} (hw : b.frm.w ≤ b.cfg.sentenceCap - 2) : rxAdvance b = { b with frm := b.frm.appended b.cfg } := by
  by_cases hlast : b.frm.w = b.cfg.sentenceCap - 2
  · rw [rxAdvance, if_pos (by omega), Framer.appended, if_pos hlast]
  · rw [rxAdvance, if_neg (by omega), Framer.appended, if_neg hlast]

/-- The byte is stored at the cursor of the held slot, then the cursor moves. -/
theorem rxAppend_of_held {b : Block} {k : Nat} (v : Byte) (hcur : b.frm.cur = some k) (hk : k < b.cfg.nSlots)
    (hcap : 8 ≤ b.cfg.sentenceCap) (hw : b.frm.w ≤ b.cfg.sentenceCap - 2) :
    rxAppend v b = .ok { b with mem := memWrite (slotAddr b.cfg k b.frm.w) v b.mem, frm := b.frm.appended b.cfg } := by
  simp only [rxAppend, hcur, storeSlot_inside v hk (show b.frm.w < b.cfg.sentenceCap by omega), Except.map]
  exact congrArg Except.ok (rxAdvance_eq hw)

/-- The memory after the terminator and the null (R140). -/
def terminated (k : Nat) (b : Block) : Memory :=
  memWrite (slotAddr b.cfg k (b.frm.w + 1)) 0#8 (memWrite (slotAddr b.cfg k b.frm.w) terminator b.mem)

/-- The two bytes are stored, then the slot is released. -/
theorem rxComplete_of_held {b : Block} {k : Nat} (hcur : b.frm.cur = some k) (hk : k < b.cfg.nSlots)
    (hw : b.frm.w + 1 < b.cfg.sentenceCap) : rxComplete b = .ok (rxRelease k { b with mem := terminated k b }) := by
  have hnext := storeSlot_inside (b := { b with mem := memWrite (slotAddr b.cfg k b.frm.w) terminator b.mem }) 0#8 hk hw
  simp only [rxComplete, hcur, storeSlot_inside terminator hk (Nat.lt_of_succ_lt hw), Except.bind, hnext]
  rfl

theorem rxStartArm_of_ignores {b : Block} (h : rxIgnores b = true) : rxStartArm b = .ok b := if_pos h

/-- The line begins again: the start marker at byte 0, the cursor after it. -/
theorem rxStartArm_of_held {b : Block} {k : Nat} (hig : rxIgnores b = false) (hcur : b.frm.cur = some k) (hk : k < b.cfg.nSlots)
    (hcap : 8 ≤ b.cfg.sentenceCap) :
    rxStartArm b = .ok { b with mem := memWrite (slotAddr b.cfg k 0) startMarker b.mem, frm := b.frm.restarted.appended b.cfg } := by
  rw [rxStartArm, if_neg (Bool.eq_false_iff.mp hig), rxRestart_eq]
  exact rxAppend_of_held (b := { b with frm := b.frm.restarted }) startMarker hcur hk hcap (Nat.zero_le _)

theorem rxDataArm_of_ignores {b : Block} (v : Byte) (h : rxIgnores b = true) : rxDataArm v b = .ok b := if_pos h

theorem rxDataArm_of_not_ignores {b : Block} (v : Byte) (h : rxIgnores b = false) : rxDataArm v b = rxAppend v b :=
  if_neg (Bool.eq_false_iff.mp h)

/-! ## The bytes after a finished line -/

theorem slotAddr_succ_ne (c : Config) (k w : Nat) : slotAddr c k w ≠ slotAddr c k (w + 1) := by
  unfold slotAddr
  omega

theorem memRead_terminated_cursor (k : Nat) {b : Block} (hm : Memory.wf b.mem = true) :
    memRead (slotAddr b.cfg k b.frm.w) (terminated k b) = terminator := by
  rw [terminated, memRead_memWrite_other (slotAddr_succ_ne _ _ _), memRead_memWrite_same _ _ hm]

theorem memRead_terminated_next (k : Nat) {b : Block} (hm : Memory.wf b.mem = true) :
    memRead (slotAddr b.cfg k (b.frm.w + 1)) (terminated k b) = 0#8 :=
  memRead_memWrite_same _ _ (wf_memWrite _ _ hm)

theorem memRead_terminated_other {k a : Nat} {b : Block} (h : a ≠ slotAddr b.cfg k b.frm.w)
    (h' : a ≠ slotAddr b.cfg k (b.frm.w + 1)) : memRead a (terminated k b) = memRead a b.mem := by
  rw [terminated, memRead_memWrite_other h', memRead_memWrite_other h]

/-! ## The obligations -/

/-- Settles O25: the restart puts the cursor at 0, where the start marker is appended. -/
theorem frmRxStartBeginsLine : Obligations.FrmRxStartBeginsLine := by
  unfold Obligations.FrmRxStartBeginsLine
  intro s k hm hcur hk hcap i hi
  rw [exec_start_eq hi, rxReceive_of_held _ hcur]
  refine ⟨fun hig => ?_, fun hig => ?_⟩
  · rw [rxStartArm_of_held (b := consumeEvent _ s.blk) hig hcur hk hcap, Framer.appended_restarted (c := (consumeEvent _ s.blk).cfg) _ hcap]
    exact ⟨_, rfl, rfl, memRead_memWrite_same _ _ hm, fun a ha => memRead_memWrite_other ha _ _⟩
  · rw [rxStartArm_of_ignores (b := consumeEvent _ s.blk) hig]
    rfl

/-- Settles O26: the byte is appended, and the cursor's two moves are the two cases of the statement. -/
theorem frmRxDataAppends : Obligations.FrmRxDataAppends := by
  unfold Obligations.FrmRxDataAppends
  intro s k v hm hcur hk hcap hw hs ht i hi
  rw [exec_data_eq (rxClass_eq_data hs ht) hi, rxReceive_of_held _ hcur]
  refine ⟨fun hig => ?_, fun hig => ?_⟩
  · rw [rxDataArm_of_not_ignores (b := consumeEvent _ s.blk) v hig, rxAppend_of_held (b := consumeEvent _ s.blk) v hcur hk hcap hw]
    exact ⟨_, rfl, rfl, memRead_memWrite_same _ _ hm, fun a ha => memRead_memWrite_other ha _ _⟩
  · rw [rxDataArm_of_ignores (b := consumeEvent _ s.blk) v hig]
    rfl

/-- Settles O27: the two stores, then the release. -/
theorem frmRxTermCompletesLine : Obligations.FrmRxTermCompletesLine := by
  unfold Obligations.FrmRxTermCompletesLine
  intro s k hm hcur hk hcap hw i hi
  have hnext : s.blk.frm.w + 1 < s.blk.cfg.sentenceCap := by omega
  rw [exec_term_eq hi, rxReceive_of_held _ hcur, rxComplete_of_held (b := consumeEvent _ s.blk) hcur hk hnext]
  exact ⟨_, rfl, rfl, memRead_terminated_cursor k (b := s.blk) hm, memRead_terminated_next k (b := s.blk) hm,
    fun a h h' => memRead_terminated_other (b := s.blk) h h'⟩

end Sys2Proof.Machine
end

section
/-!
SUPPORT. What changes the lines of the framer's slots and what does not (`41_framer.md` rule R144 (c)). The main loop's operations
store raw fields and free `READY` slots, and touch neither the text of a slot nor the claim.
-/

namespace Sys2Proof.Machine

/-! ## Lines and the memory -/

/-- The framer's registers agree, and the lines are as R144 (c) says. -/
def Framed (b : Block) : Prop := framerOk b ∧ linesOk b

theorem slot_lt {b : Block} (h : framerOk b) {i : Nat} {st : SlotStatus} (hi : b.frm.slots[i]? = some st) : i < b.cfg.nSlots := by
  obtain ⟨hlen, -, -⟩ := h
  obtain ⟨hlt, -⟩ := List.getElem?_eq_some_iff.mp hi
  exact hlen ▸ hlt

theorem cur_lt {b : Block} (h : framerOk b) {i : Nat} (hi : b.frm.cur = some i) : i < b.cfg.nSlots :=
  slot_lt h ((h.2.1 i).mpr hi)

/-- A `READY` slot is not the claimed one. -/
theorem ready_ne_cur {b : Block} (h : framerOk b) {i k : Nat} (hi : b.frm.slots[i]? = some .ready) (hk : b.frm.cur = some k) :
    i ≠ k := by
  rintro rfl
  rw [(h.2.1 i).mpr hk] at hi
  cases hi

/-- A finished line depends on the bytes of its slot alone. -/
theorem lineEnded_congr {b b' : Block} {i : Nat} (hc : b'.cfg = b.cfg)
    (h : ∀ k, k < b.cfg.sentenceCap → memRead (slotAddr b.cfg i k) b'.mem = memRead (slotAddr b.cfg i k) b.mem)
    (he : lineEnded b i) : lineEnded b' i := by
  obtain ⟨k, hk, hterm, hnull, hbefore⟩ := he
  refine ⟨k, hc ▸ hk, ?_, ?_, fun j hj => ?_⟩ <;> rw [hc, h _ (by omega)]
  · exact hterm
  · exact hnull
  · exact hbefore j hj

/-- A byte of another slot. -/
theorem slotAddr_ne_of_slot_ne {c : Config} {i i' k k' : Nat} (hk : k < c.sentenceCap) (hk' : k' < c.sentenceCap) (hi : i ≠ i') :
    slotAddr c i k ≠ slotAddr c i' k' := fun h => hi (slotAddr_inj hk hk' h).1

/-- A raw field written leaves the lines alone. -/
theorem framed_storeRaw (i k : Nat) (v : Byte) {b : Block} (h : Framed b) : Framed (storeRaw i k v b) := by
  obtain ⟨hf, hready, hcur⟩ := h
  have hread : ∀ j l, j < b.cfg.nSlots → l < b.cfg.sentenceCap →
      memRead (slotAddr b.cfg j l) (storeRaw i k v b).mem = memRead (slotAddr b.cfg j l) b.mem := fun j l hj hl =>
    memRead_memWrite_other (slotAddr_lt_rawAddr hj hl).ne v b.mem
  refine ⟨hf, fun j hj => lineEnded_congr (b := b) rfl (fun l hl => hread j l (slot_lt hf hj) hl) (hready j hj), fun j hj l hl => ?_⟩
  have hw : b.frm.w ≤ b.cfg.sentenceCap - 2 := hf.2.2
  change l < b.frm.w at hl
  change memRead (slotAddr b.cfg j l) _ ≠ _
  rw [hread j l (cur_lt hf hj) (by omega)]
  exact hcur j hj l hl

theorem readyBit_eq_one (i : Nat) (b : Block) : readyBit i b = 1 ↔ b.frm.slots[i]? = some .ready := by
  unfold readyBit
  split <;> simp_all

theorem freeReady_of_ready {i : Nat} {b : Block} (h : b.frm.slots[i]? = some .ready) : freeReady i b = setSlot i .free b :=
  if_pos ((readyBit_eq_one i b).mpr h)

theorem freeReady_of_not_ready {i : Nat} {b : Block} (h : b.frm.slots[i]? ≠ some .ready) : freeReady i b = b :=
  if_neg (mt (readyBit_eq_one i b).mp h)

/-- A slot freed is not `READY` any more. -/
theorem framed_freeReady (i : Nat) {b : Block} (h : Framed b) : Framed (freeReady i b) := by
  obtain ⟨hf, hready, hcur⟩ := h
  by_cases hi : b.frm.slots[i]? = some .ready
  · rw [freeReady_of_ready hi]
    refine ⟨framerOk_setSlot_free hf hi, fun j hj => hready j ?_, hcur⟩
    rw [setSlot_frm, List.getElem?_set] at hj
    split at hj
    · split at hj <;> cases hj
    · exact hj
  · rw [freeReady_of_not_ready hi]
    exact ⟨hf, hready, hcur⟩

/-! ## Programs that leave the framer alone -/

theorem framed_act {f : Block → Block} (h : ∀ b, Framed b → Framed (f b) := by exact fun _ h => h) : (Prog.act f).Keeps Framed := .act h

theorem framed_writeReg {r : Reg w} {v : BitVec w} (h : ∀ x b, Framed b → Framed (r.set x b) := by exact fun _ _ h => h) :
    (writeReg r v).Keeps Framed := keeps_writeReg h v

theorem framed_modifyReg {r : Reg w} {f : BitVec w → BitVec w} (h : ∀ x b, Framed b → Framed (r.set x b) := by exact fun _ _ h => h) :
    (modifyReg r f).Keeps Framed := keeps_modifyReg h

theorem framed_copyReg {src dst : Reg w} (h : ∀ x b, Framed b → Framed (dst.set x b) := by exact fun _ _ h => h) :
    (copyReg src dst).Keeps Framed := (keeps_readReg src).bind fun _ => keeps_writeReg h _

theorem framed_orStatusProg (n : Nat) : (orStatusProg n).Keeps Framed := framed_modifyReg

theorem framed_endPhase (p : BitVec 4) : (endPhase p).Keeps Framed := framed_act

theorem framed_returns (r : Result) : (returns r).Keeps Framed := framed_act

variable (c : Config)

/-! ### Parser -/

theorem framed_parseGga (line : List Byte) : (parseGga c line).Keeps Framed := by
  unfold parseGga
  split
  · exact .andThen framed_writeReg <| .andThen framed_writeReg <| .andThen framed_writeReg <| .andThen framed_writeReg <|
      .andThen framed_writeReg <| .andThen framed_writeReg <| framed_orStatusProg _
  · exact .ret _

theorem framed_parseRmc (line : List Byte) : (parseRmc c line).Keeps Framed := by
  unfold parseRmc
  split
  · exact .andThen framed_writeReg <| .andThen framed_writeReg <| .andThen framed_writeReg <| .andThen framed_writeReg <|
      framed_orStatusProg _
  · exact .ret _

theorem framed_parseLine (line : List Byte) : (parseLine c line).Keeps Framed := by
  unfold parseLine
  split
  · exact framed_parseGga c line
  · split
    · exact framed_parseRmc c line
    · exact .ret _

/-! ### The drain -/

theorem framed_copyRaw (i : Nat) : (copyRaw c i).Keeps Framed :=
  .forEach (fun _ => (Prog.Keeps.ask _).bind fun _ => Prog.Keeps.act (P := Framed) fun _ => framed_storeRaw _ _ _) _

theorem framed_drainSlot (i : Nat) : (drainSlot c i).Keeps Framed := by
  refine .andThen ?_ <| (Prog.Keeps.askBytes _ _ _).bind fun line => .andThen ?_ (.act fun _ => framed_freeReady i)
  · split
    · exact framed_copyRaw c i
    · exact .ret _
  · split
    · exact framed_parseLine c line
    · exact framed_orStatusProg _

theorem framed_drainTurn (i : Nat) : (drainTurn c i).Keeps Framed := by
  refine (Prog.Keeps.ask _).bind fun r => ?_
  split
  · exact framed_drainSlot c i
  · exact .ret _

theorem framed_frmDrainProg : (frmDrainProg c).Keeps Framed :=
  Prog.Keeps.bind (p := .micro _ _) ⟨fun _ h => h, fun _ => .ret _⟩ fun _ =>
    .andThen framed_modifyReg <| .andThen (.forEach (framed_drainTurn c) _) (framed_endPhase _)

/-! ### Encoder, estimator and scheduler -/

theorem framed_encDrainProg : encDrainProg.Keeps Framed := by
  refine (Prog.Keeps.ask _).bind fun _ => .andThen framed_writeReg <| .andThen framed_act <| .andThen framed_act <|
    .andThen framed_copyReg <| (Prog.Keeps.ask _).bind fun _ => .andThen framed_writeReg <| (Prog.Keeps.ask _).bind fun e =>
    .andThen ?_ (framed_endPhase _)
  split
  · exact framed_orStatusProg _
  · exact .ret _

theorem framed_integrate (along : F32 → F32) {coord : Reg 32} (d : F32) (h : ∀ x b, Framed b → Framed (coord.set x b)) :
    (integrate along coord d).Keeps Framed :=
  (keeps_readReg _).bind fun _ => (keeps_readReg _).bind fun _ => framed_writeReg h

theorem framed_estUpdateProg : (estUpdateProg c).Keeps Framed := by
  refine .andThen framed_copyReg <| (keeps_readReg _).bind fun st => .andThen ?_ (framed_endPhase _)
  split
  · exact .andThen framed_copyReg framed_copyReg
  · refine (keeps_readReg _).bind fun v => ?_
    split
    · exact (keeps_readReg _).bind fun _ =>
        (framed_integrate _ _ fun _ _ h => h).andThen (framed_integrate _ _ fun _ _ h => h)
    · exact .ret _

theorem framed_schStclrProg : schStclrProg.Keeps Framed := .andThen framed_writeReg (framed_endPhase _)

/-! ### Guidance -/

theorem framed_withWaypoint {use : Waypoint → Prog Unit} (h : ∀ w, (use w).Keeps Framed) : (withWaypoint c use).Keeps Framed := by
  refine (keeps_readReg _).bind fun i => (Prog.Keeps.require _).andThen ?_
  split
  · exact h _
  · exact .ret _

theorem framed_advanceProg (fuel : Nat) : (advanceProg c fuel).Keeps Framed := by
  induction fuel with
  | zero => exact .ret _
  | succ fuel ih =>
    refine framed_withWaypoint c fun w => (keeps_readReg _).bind fun px => (keeps_readReg _).bind fun py => ?_
    split
    · exact .andThen framed_modifyReg ih
    · exact .ret _

theorem framed_gdeUpdateProg : (gdeUpdateProg c).Keeps Framed :=
  (framed_advanceProg c _).andThen <| Prog.Keeps.andThen
    ((keeps_readReg _).bind fun _ => (keeps_readReg _).bind fun _ => (keeps_readReg _).bind fun _ =>
      framed_withWaypoint c fun _ => framed_writeReg)
    (framed_endPhase _)

/-! ### Actuation -/

theorem framed_caseDrive {arm : DriveState → Prog Unit} (h : ∀ d, (arm d).Keeps Framed) : (caseDrive arm).Keeps Framed := by
  refine (Prog.Keeps.ask _).bind fun n => ?_
  split
  · exact h _
  · split
    · exact h _
    · split <;> exact h _

theorem framed_driveForward (us : U16) : (driveForward us).Keeps Framed := .andThen framed_writeReg <| .andThen framed_act framed_writeReg

theorem framed_rampToNeutral (step : Nat) : (rampToNeutral c step).Keeps Framed := by
  refine (keeps_readReg _).bind fun t => ?_
  split
  · exact framed_writeReg
  · exact .andThen framed_writeReg framed_act

theorem framed_driveStop : (driveStop c).Keeps Framed := by
  refine framed_caseDrive fun st => ?_
  cases st with
  | neutral => exact framed_writeReg
  | preReverse => exact .andThen framed_writeReg <| .andThen framed_act framed_writeReg
  | forward => exact framed_rampToNeutral c _
  | reverse => exact framed_rampToNeutral c _

theorem framed_driveReverse (target : U16) : (driveReverse c target).Keeps Framed := by
  refine framed_caseDrive fun st => ?_
  cases st with
  | reverse => exact framed_modifyReg
  | forward => exact framed_rampToNeutral c _
  | neutral => exact .andThen framed_act <| .andThen framed_writeReg framed_writeReg
  | preReverse =>
    refine .andThen framed_modifyReg <| (keeps_readReg _).bind fun h => ?_
    split
    · exact framed_act
    · exact .ret _

theorem framed_driveWaypoint (w : Waypoint) : (driveWaypoint c w).Keeps Framed := by
  have harm : ∀ cmd p, driveOf c cmd = some p → p.Keeps Framed := by
    intro cmd p h
    cases cmd with
    | stop => exact Option.some.inj h ▸ framed_driveStop c
    | fwd k =>
      obtain ⟨us, -, rfl⟩ := Option.map_eq_some_iff.mp h
      exact framed_driveForward us
    | rev k =>
      obtain ⟨us, -, rfl⟩ := Option.map_eq_some_iff.mp h
      exact framed_driveReverse c us
  unfold driveWaypoint
  split
  · next p h => exact harm _ p h
  · exact .require _

theorem framed_actUpdateProg : (actUpdateProg c).Keeps Framed :=
  (keeps_readReg _).bind fun _ => .andThen framed_writeReg <| (framed_withWaypoint c (framed_driveWaypoint c)).andThen <|
    .andThen framed_act <| .andThen framed_act (framed_endPhase _)

theorem framed_startupPulse : (startupPulse c).Keeps Framed :=
  .andThen framed_writeReg <| .andThen framed_act <| .andThen framed_act framed_act

theorem framed_actStartupProg : (actStartupProg c).Keeps Framed := by
  refine .andThen (.andThen framed_writeReg <| .andThen framed_writeReg <| .andThen framed_act framed_writeReg) ?_
  split
  · exact .ret _
  · exact framed_startupPulse c

/-! ### Heading -/

theorem framed_hdgBeginProg : hdgBeginProg.Keeps Framed := (Prog.Keeps.require _).andThen <| .andThen framed_act framed_act

theorem framed_rearm : rearm.Keeps Framed := .andThen framed_act <| .andThen framed_act framed_hdgBeginProg

theorem framed_hdgPollProg : (hdgPollProg c).Keeps Framed := by
  refine (Prog.Keeps.ask _).bind fun st => .andThen ?_ (framed_endPhase _)
  split
  · exact (keeps_readReg _).bind fun _ => .andThen framed_writeReg <| .andThen framed_writeReg <|
      (keeps_readReg _).bind fun _ => .andThen framed_writeReg <| framed_rearm.andThen (framed_returns _)
  split
  · exact .andThen framed_writeReg <| (framed_orStatusProg _).andThen <| framed_rearm.andThen (framed_returns _)
  split
  · refine (Prog.Keeps.ask _).bind fun busy => .andThen ?_ (framed_returns _)
    split
    · exact framed_hdgBeginProg
    · exact .ret _
  · exact framed_returns _

/-! ### Storage -/

theorem framed_spiXchg (v : Byte) (b : Block) (h : Framed b) : Framed (spiXchg v b).1 := h

theorem framed_command (f : CmdFrame) : (command c f).Keeps Framed := keeps_command framed_spiXchg (fun _ h => h) c f

theorem framed_deselectWith (a : α) : (deselect.andThen (.ret a)).Keeps Framed := .andThen framed_act (.ret a)

theorem framed_commandAlone (f : CmdFrame) : (commandAlone c f).Keeps Framed :=
  (framed_command c f).bind fun _ => framed_deselectWith _

theorem framed_cmdIfcond : (cmdIfcond c).Keeps Framed := by
  refine (framed_command c _).bind fun r => ?_
  split
  · exact (keeps_recvBytes framed_spiXchg _ _).bind fun _ => framed_deselectWith _
  · exact framed_deselectWith _

theorem framed_cmdReadocr : (cmdReadocr c).Keeps Framed := by
  refine (framed_command c _).bind fun r => ?_
  split
  · exact (keeps_recvBytes framed_spiXchg _ _).bind fun _ => framed_deselectWith _
  · exact framed_deselectWith _

theorem framed_cmdReadcsd : (cmdReadcsd c).Keeps Framed :=
  (framed_command c _).bind fun _ => keeps_readBlockData framed_spiXchg (fun _ h => h) c (fun _ _ => framed_act)
    (forget := forgetCsd) (fun _ h => h) _ _

theorem framed_readBlock (addr : U32) : (readBlock c addr).Keeps Framed := by
  refine (framed_command c _).bind fun _ => keeps_readBlockData framed_spiXchg (fun _ h => h) c (fun i v => ?_)
    (forget := forgetLead) (fun _ h => h) _ _
  unfold keepLead
  split
  · exact framed_act
  · exact .ret _

theorem framed_probeBlock (a : Nat) : (probeBlock c a).Keeps Framed := by
  refine (framed_readBlock c _).bind fun ok => ?_
  split
  · exact (Prog.Keeps.askBytes _ _ _).bind fun _ => .ret _
  · exact .ret _

theorem framed_bisect (fuel lo hi : Nat) : (bisect (probeBlock c) fuel lo hi).Keeps Framed := by
  induction fuel generalizing lo hi with
  | zero => exact .ret _
  | succ fuel ih =>
    unfold bisect
    split
    · refine (framed_probeBlock c _).bind fun r => ?_
      match r with
      | none => exact .ret _
      | some true => exact ih _ _
      | some false => exact ih _ _
    · exact .ret _

theorem framed_findBlock : (findBlock c).Keeps Framed := by
  refine (keeps_readReg _).bind fun cap => Prog.Keeps.bind ?_ fun k => ?_
  · refine (framed_probeBlock c _).bind fun r => ?_
    match r with
    | none => exact .ret _
    | some false => exact .ret _
    | some true =>
      refine (framed_bisect c _ _ _).bind fun k => ?_
      cases k <;> exact .ret _
  · cases k with
    | none => exact .andThen framed_act (.ret _)
    | some k => exact .ret _

theorem framed_opcondLoop (n : Nat) : (opcondLoop c n).Keeps Framed := by
  induction n with
  | zero => exact .ret _
  | succ n ih =>
    refine (framed_commandAlone c _).bind fun a => ?_
    split
    · refine (framed_commandAlone c _).bind fun r => ?_
      split
      · exact .ret _
      · split
        · exact ih
        · exact .ret _
    · exact .ret _

theorem framed_orFail {step : Prog Bool} {next : Prog Unit} (hs : step.Keeps Framed) (hn : next.Keeps Framed) :
    (orFail step next).Keeps Framed := by
  refine hs.bind fun ok => ?_
  split
  · exact hn
  · exact framed_act

theorem framed_stoInitProg : (stoInitProg c).Keeps Framed := by
  refine .andThen framed_act <| .andThen framed_act <|
    framed_orFail ((framed_commandAlone c _).bind fun _ => .ret _) <| framed_orFail (framed_cmdIfcond c) <|
    framed_orFail (framed_opcondLoop c _) <| framed_orFail ((framed_cmdReadocr c).bind fun _ => .ret _) <|
    .andThen framed_act <| framed_orFail (framed_cmdReadcsd c) <|
    .andThen ((Prog.Keeps.askBytes _ _ _).bind fun _ => framed_writeReg) <| (framed_findBlock c).bind fun k => ?_
  cases k with
  | none => exact framed_act
  | some k => exact .andThen framed_writeReg framed_act

theorem framed_sendRecord (n i : Nat) : (sendRecord n i).Keeps Framed := by
  induction n generalizing i with
  | zero => exact .ret _
  | succ n ih => exact Prog.Keeps.andThen (p := .micro _ _) ⟨fun _ h => h, fun _ => .ret _⟩ (ih _)

theorem framed_busyPoll (n : Nat) : (busyPoll c n).Keeps Framed := by
  induction n with
  | zero => exact .ret _
  | succ n ih =>
    refine (keeps_xchg framed_spiXchg _).bind fun r => ?_
    split
    · exact ih
    · exact .ret _

theorem framed_writeRecord : (writeRecord c).Keeps Framed := by
  refine (keeps_readReg _).bind fun a => (framed_command c _).bind fun r => .bind ?_ fun ok => ?_
  · split
    · refine (keeps_sendBytes framed_spiXchg _).andThen <| (framed_sendRecord _ _).andThen <|
        (keeps_sendBytes framed_spiXchg _).andThen <| (keeps_xchg framed_spiXchg _).bind fun r => ?_
      split
      · exact framed_busyPoll c _
      · exact .ret _
    · exact .ret _
  · split
    · exact .andThen framed_act framed_modifyReg
    · exact .andThen framed_act framed_act

theorem framed_stoWriteProg : (stoWriteProg c).Keeps Framed := by
  refine (Prog.Keeps.ask _).bind fun enabled => .andThen ?_ (framed_endPhase _)
  split
  · refine (keeps_readReg _).bind fun next => (keeps_readReg _).bind fun cap => ?_
    split
    · exact framed_act
    · exact framed_writeRecord c
  · exact .ret _

/-- Every micro-step of every operation of the main loop keeps the lines. -/
theorem framed_loopProg (which : LoopOp) : (loopProg c which).Keeps Framed := by
  cases which with
  | frmDrain => exact framed_frmDrainProg c
  | hdgPoll => exact framed_hdgPollProg c
  | encDrain => exact framed_encDrainProg
  | estUpdate => exact framed_estUpdateProg c
  | gdeUpdate => exact framed_gdeUpdateProg c
  | actUpdate => exact framed_actUpdateProg c
  | stoWrite => exact framed_stoWriteProg c
  | schStclr => exact framed_schStclrProg
  | actStartup => exact framed_actStartupProg c
  | startupPulse left => exact framed_startupPulse c
  | stoInit => exact framed_stoInitProg c
  | hdgBegin => exact framed_hdgBeginProg

end Sys2Proof.Machine
end

section
/-!
SUPPORT. The lines of the slots under every step (`41_framer.md` rules R140, R143, R144 (c)): the handler of a received byte writes
the claimed slot alone, and makes it `READY` when its line is finished.
-/

namespace Sys2Proof.Machine

/-! ## The handler of a received byte -/

theorem linesOk_claimSlot {b : Block} {k : Nat} (h : linesOk b) : linesOk (claimSlot k b) := by
  refine ⟨fun i hi => h.1 i ?_, fun i _ j hj => absurd hj (Nat.not_lt_zero j)⟩
  rw [claimSlot, List.getElem?_set] at hi
  split at hi
  · split at hi <;> cases hi
  · exact hi

theorem inv_claimSlot {b : Block} {k : Nat} (h : b.Inv) (hcur : b.frm.cur = none) (hk : firstFree b.frm.slots = some k) :
    (claimSlot k b).Inv := { h with framer := framerOk_claim h.framer hcur hk }

/-- A line begun again has no terminator below its cursor. -/
theorem linesOk_restarted {b : Block} (h : linesOk b) : linesOk { b with frm := b.frm.restarted } :=
  ⟨h.1, fun _ _ j hj => absurd hj (Nat.not_lt_zero j)⟩

theorem inv_restarted {b : Block} (h : b.Inv) : Block.Inv { b with frm := b.frm.restarted } :=
  rxRestart_eq b ▸ (quiet_rxRestart b).inv h

theorem Framer.appended_slots (c : Config) (f : Framer) : (f.appended c).slots = f.slots := by
  unfold Framer.appended
  split <;> rfl

theorem Framer.appended_cur (c : Config) (f : Framer) : (f.appended c).cur = f.cur := by
  unfold Framer.appended
  split <;> rfl

theorem Framer.appended_w_le (c : Config) (f : Framer) : (f.appended c).w ≤ f.w + 1 := by
  unfold Framer.appended
  split
  · exact Nat.le_succ _
  · exact Nat.le_refl _

/-- A byte that is no terminator, stored at the cursor of the claimed slot, finishes no line and breaks none. -/
theorem linesOk_append {b : Block} {k : Nat} {v : Byte} (hb : b.Inv) (hl : linesOk b) (hcur : b.frm.cur = some k)
    (hv : v ≠ terminator) :
    linesOk { b with mem := memWrite (slotAddr b.cfg k b.frm.w) v b.mem, frm := b.frm.appended b.cfg } := by
  obtain ⟨hready, hbelow⟩ := hl
  have hw : b.frm.w < b.cfg.sentenceCap := Nat.lt_of_succ_lt (cursor_inside hb hcur).2
  refine ⟨fun i hi => ?_, fun i hi j hj => ?_⟩
  · rw [Framer.appended_slots] at hi
    refine lineEnded_congr (b := b) rfl (fun l hlt => memRead_memWrite_other ?_ v b.mem) (hready i hi)
    exact slotAddr_ne_of_slot_ne hlt hw (ready_ne_cur hb.framer hi hcur)
  · rw [Framer.appended_cur, hcur] at hi
    obtain rfl := Option.some.inj hi
    have hj' : j < b.frm.w + 1 := hj.trans_le (Framer.appended_w_le _ _)
    by_cases hjw : j = b.frm.w
    · rw [hjw]
      exact (memRead_memWrite_same _ v hb.mem).trans_ne hv
    · refine (memRead_memWrite_other ?_ v b.mem).trans_ne (hbelow k hcur j (by omega))
      exact fun h => hjw (slotAddr_inj (by omega) hw h).2

/-- The terminator and the null finish the line of the claimed slot. -/
theorem linesOk_release {b : Block} {k : Nat} (hb : b.Inv) (hl : linesOk b) (hcur : b.frm.cur = some k) :
    linesOk (rxRelease k { b with mem := terminated k b }) := by
  obtain ⟨hready, hbelow⟩ := hl
  have hw : b.frm.w + 1 < b.cfg.sentenceCap := (cursor_inside hb hcur).2
  refine ⟨fun i hi => ?_, nofun⟩
  by_cases hik : i = k
  · subst hik
    refine ⟨b.frm.w, hw, memRead_terminated_cursor i hb.mem, memRead_terminated_next i hb.mem, fun j hj => ?_⟩
    refine (memRead_terminated_other ?_ ?_).trans_ne (hbelow i hcur j hj)
    · exact fun h => absurd (slotAddr_inj (c := b.cfg) (by omega) (by omega) h).2 (by omega)
    · exact fun h => absurd (slotAddr_inj (c := b.cfg) (by omega) hw h).2 (by omega)
  · have hi' : b.frm.slots[i]? = some .ready := by
      rwa [rxRelease, List.getElem?_set_ne (Ne.symm hik)] at hi
    refine lineEnded_congr (b := b) rfl (fun l hlt => memRead_terminated_other ?_ ?_) (hready i hi')
    · exact slotAddr_ne_of_slot_ne hlt (by omega) hik
    · exact slotAddr_ne_of_slot_ne hlt hw hik

/-- What an arm of the handler must do where a slot is held. -/
def ArmKeepsLines (arm : Block → Except Fault Block) : Prop :=
  ∀ b k, b.Inv → linesOk b → b.frm.cur = some k → ∀ b', arm b = .ok b' → linesOk b'

theorem sentenceCap_ge {b : Block} (h : b.Inv) : 8 ≤ b.cfg.sentenceCap := by
  have hok := h.cfg
  simp only [Config.ok, Config.okSlots, Bool.and_eq_true, decide_eq_true_eq] at hok
  omega

theorem keepsLines_rxAppend {v : Byte} (hv : v ≠ terminator) : ArmKeepsLines (rxAppend v) := by
  intro b k hb hl hcur b' he
  rw [rxAppend_of_held v hcur (cursor_inside hb hcur).1 (sentenceCap_ge hb) hb.framer.2.2] at he
  exact Except.ok.inj he ▸ linesOk_append hb hl hcur hv

theorem keepsLines_rxDataArm {v : Byte} (hv : v ≠ terminator) : ArmKeepsLines (rxDataArm v) := by
  intro b k hb hl hcur b' he
  cases hig : rxIgnores b with
  | true =>
    rw [rxDataArm_of_ignores v hig] at he
    exact Except.ok.inj he ▸ hl
  | false =>
    rw [rxDataArm_of_not_ignores v hig] at he
    exact keepsLines_rxAppend hv b k hb hl hcur b' he

theorem keepsLines_rxStartArm : ArmKeepsLines rxStartArm := by
  intro b k hb hl hcur b' he
  cases hig : rxIgnores b with
  | true =>
    rw [rxStartArm_of_ignores hig] at he
    exact Except.ok.inj he ▸ hl
  | false =>
    rw [rxStartArm, if_neg (Bool.eq_false_iff.mp hig), rxRestart_eq] at he
    exact keepsLines_rxAppend (by decide) _ k (inv_restarted hb) (linesOk_restarted hl) hcur b' he

theorem keepsLines_rxComplete : ArmKeepsLines rxComplete := by
  intro b k hb hl hcur b' he
  obtain ⟨hk, hw⟩ := cursor_inside hb hcur
  rw [rxComplete_of_held hcur hk hw] at he
  exact Except.ok.inj he ▸ linesOk_release hb hl hcur

theorem keepsLines_rxArm (v : Byte) : ArmKeepsLines (rxArm v) := by
  unfold rxArm
  cases hv : rxClass v with
  | start => exact keepsLines_rxStartArm
  | term => exact keepsLines_rxComplete
  | data => exact keepsLines_rxDataArm (ne_terminator_of_rxClass hv)

/-- A byte received, with a slot held or not. -/
theorem linesOk_rxReceive {v : Byte} {arm : Block → Except Fault Block} (harm : ArmKeepsLines arm) {b b' : Block} (hb : b.Inv)
    (hl : linesOk b) (he : rxReceive v arm b = .ok b') : linesOk b' := by
  have hheld : ∀ (b : Block) k, b.Inv → linesOk b → b.frm.cur = some k → rxReceive v arm b = .ok b' → linesOk b' := by
    intro b k hb hl hcur he
    rw [rxReceive_of_held v hcur] at he
    exact harm _ k ((quiet_consumeEvent _ b).inv hb) hl hcur b' he
  cases hcur : b.frm.cur with
  | some k => exact hheld b k hb hl hcur he
  | none =>
    cases hfree : firstFree b.frm.slots with
    | some k =>
      rw [rxReceive_of_firstFree v hcur hfree] at he
      exact hheld _ k (inv_claimSlot hb hcur hfree) (linesOk_claimSlot hl) rfl he
    | none =>
      rw [rxReceive_of_noneFree v hcur hfree] at he
      exact Except.ok.inj he ▸ hl

/-! ## Changes of the block that leave the framer alone -/

/-- The registers of which `linesOk` speaks. -/
def Block.framing (b : Block) := (b.cfg, b.mem, b.frm)

theorem linesOk_of_framing {b b' : Block} (h : b'.framing = b.framing) (hl : linesOk b) : linesOk b' := by
  simp only [Block.framing, Prod.mk.injEq] at h
  obtain ⟨hcfg, hmem, hfrm⟩ := h
  simpa only [linesOk, lineEnded, hcfg, hmem, hfrm] using hl

theorem framing_ite {p : Prop} [Decidable p] {b x y : Block} (hx : x.framing = b.framing) (hy : y.framing = b.framing) :
    (if p then x else y).framing = b.framing := by
  split
  · exact hx
  · exact hy

theorem framing_raiseEvent (e : Event) (b : Block) : (raiseEvent e b).framing = b.framing := framing_ite rfl rfl

theorem framing_setPulse (ch : Channel) (p : Pulse) (b : Block) : (setPulse ch p b).framing = b.framing := by
  cases ch <;> rfl

theorem framing_schBegin (b : Block) : (schBegin b).framing = b.framing := framing_ite rfl rfl

theorem framing_schWait (b : Block) : (schWait b).framing = b.framing := framing_ite rfl (framing_ite rfl rfl)

theorem framing_schTick (b : Block) : (schTick b).framing = b.framing := framing_ite (framing_raiseEvent _ _) rfl

theorem framing_pulseTick (ch : Channel) (b : Block) : (pulseTick ch b).framing = b.framing :=
  framing_ite (framing_ite ((framing_raiseEvent _ _).trans (framing_setPulse _ _ _)) (framing_setPulse _ _ _)) rfl

theorem framing_applyQuad (ab : BitVec 2) (b : Block) : (applyQuad ab b).framing = b.framing :=
  framing_ite rfl (framing_raiseEvent _ _)

theorem framing_edgeDecode (q : BitVec 2) (b : Block) : (edgeDecode q b).framing = b.framing :=
  framing_ite rfl (framing_ite rfl rfl)

theorem framing_hdgEvent (k : TwClass) (data : Byte) (b : Block) : (hdgEvent k data b).framing = b.framing := by
  cases k with
  | other => rfl
  | _ => exact framing_ite rfl rfl

/-! ## Instructions as a whole -/

/-- A next state, if there is one, has its lines as R144 (c) says. -/
def LinesAfter (o : Host.Outcome State Fault Refusal) : Prop := ∀ t, o = .next t → linesOk t.blk

theorem LinesAfter.next {s : State} (h : linesOk s.blk) : LinesAfter (.next s) := by
  rintro t ⟨⟩
  exact h

theorem LinesAfter.fault (f : Fault) : LinesAfter (.fault f) := fun _ h => by cases h

theorem LinesAfter.refused (r : Refusal) : LinesAfter (.refused r) := fun _ h => by cases h

theorem LinesAfter.done {s : State} {f : Block → Block} (hl : linesOk s.blk) (h : (f s.blk).framing = s.blk.framing) :
    LinesAfter (done f s) :=
  .next (linesOk_of_framing h hl)

theorem LinesAfter.received {s : State} {v : Byte} {arm : Block → Except Fault Block} (hb : s.blk.Inv) (hl : linesOk s.blk)
    (harm : ArmKeepsLines arm) : LinesAfter (doneOrFault (rxReceive v arm s.blk) s) := by
  intro t ht
  obtain ⟨b, he, rfl⟩ := doneOrFault_next ht
  exact linesOk_rxReceive harm hb hl he

theorem LinesAfter.complete {s : State} {p : Prog α} (h : Framed s.blk) (hp : p.Keeps Framed) : LinesAfter (complete p s) :=
  .next (hp.run h).2

theorem LinesAfter.perform {s : State} {p : Prog α} (h : Framed s.blk) (hp : p.Keeps Framed) : LinesAfter (perform p s) := by
  intro t ht
  obtain ⟨r, -, hr, rfl⟩ := perform_next ht
  exact (hr ▸ hp.run h).2

/-- A storage operation that returns its value. -/
theorem LinesAfter.returning {s : State} {p : Config → Prog α} (h : Framed s.blk) (hp : (p s.blk.cfg).Keeps Framed) (g : α → Result) :
    LinesAfter (Machine.done (fun b => setRet (g ((p b.cfg).run b).1) ((p b.cfg).run b).2) s) :=
  .next (hp.run h).2

/-- From a good block every instruction keeps the lines. That the arm of data receives no terminator is R90, not the arm's. -/
theorem exec_linesAfter {s : State} (hb : s.blk.Inv) (hl : linesOk s.blk) {i : Instr} (hi : ∀ v, i = .frmRxData v → rxClass v = .data) :
    LinesAfter (exec i s) := by
  have h : Framed s.blk := ⟨hb.framer, hl⟩
  cases i
  case frmRx v => exact .received hb hl (keepsLines_rxArm v)
  case frmRxStart => exact .received hb hl keepsLines_rxStartArm
  case frmRxTerm => exact .received hb hl keepsLines_rxComplete
  case frmRxData v => exact .received hb hl (keepsLines_rxDataArm (ne_terminator_of_rxClass (hi v rfl)))
  case frmDrain => exact .complete h (framed_frmDrainProg _)
  case schBegin => exact .done hl (framing_schBegin _)
  case schWait => exact .done hl (framing_schWait _)
  case schTick => exact .done hl (framing_schTick _)
  case schOvf | prsChk | encEdgeNochg | encEdgeBoth | encEdgeA | encEdgeB => exact .done hl rfl
  case schStclr => exact .complete h framed_schStclrProg
  case prsParse line => exact .complete h (framed_parseLine _ line)
  case prsGga | prsParseGga => exact .complete h (framed_parseGga _ _)
  case prsRmc | prsParseRmc => exact .complete h (framed_parseRmc _ _)
  case prsParseIgnore => exact .next hl
  case hdgBegin => exact .perform h framed_hdgBeginProg
  case hdgPoll => exact .perform h (framed_hdgPollProg _)
  case hdgEvt st data => exact .done hl (framing_hdgEvent _ data _)
  case hdgEvtStart st data => exact .done hl (framing_hdgEvent .start data _)
  case hdgEvtRepstart st data => exact .done hl (framing_hdgEvent .repStart data _)
  case hdgEvtSlawAck st data => exact .done hl (framing_hdgEvent .slawAck data _)
  case hdgEvtTxdataAck st data => exact .done hl (framing_hdgEvent .txdataAck data _)
  case hdgEvtSlarAck st data => exact .done hl (framing_hdgEvent .slarAck data _)
  case hdgEvtRxdataAck st data => exact .done hl (framing_hdgEvent .rxdataAck data _)
  case hdgEvtRxdataNack st data => exact .done hl (framing_hdgEvent .rxdataNack data _)
  case hdgEvtOther st data => exact .done hl (framing_hdgEvent .other data _)
  case encEdge ab => exact .done hl (framing_edgeDecode _ _)
  case encDrain => exact .complete h framed_encDrainProg
  case estUpdate => exact .complete h (framed_estUpdateProg _)
  case gdeCrossed wp px py =>
    show LinesAfter (execGdeCrossed wp px py s)
    unfold execGdeCrossed
    split
    · exact .done hl rfl
    · exact .refused _
  case gdeAdvance => exact .perform h (framed_advanceProg _ _)
  case gdeAngle px py heading =>
    show LinesAfter (execGdeAngle px py heading s)
    unfold execGdeAngle
    split
    · exact .done hl rfl
    · exact .fault _
  case gdeUpdate => exact .perform h (framed_gdeUpdateProg _)
  case actFwd k =>
    show LinesAfter (execActFwd k s)
    unfold execActFwd
    split
    · exact .complete h (framed_driveForward _)
    · exact .refused _
  case actStop => exact .complete h (framed_driveStop _)
  case actRev k =>
    show LinesAfter (execActRev k s)
    unfold execActRev
    split
    · exact .complete h (framed_driveReverse _ _)
    · exact .refused _
  case actSteer angle => exact .complete h framed_writeReg
  case actUpdate => exact .perform h (framed_actUpdateProg _)
  case actStartup => exact .next ((framed_actStartupProg _).run h).2
  case plsStart ch => exact .done hl (framing_setPulse ch _ _)
  case plsMatch ch => exact .done hl (framing_setPulse ch _ _)
  case plsTick ch => exact .done hl (framing_pulseTick ch _)
  case stoCmd cmd arg trail => exact .returning h (p := fun c => command c ⟨cmd, arg, trail⟩) (framed_command _ _) .answer
  case stoCmdReset => exact .returning h (p := fun c => commandAlone c frameReset) (framed_commandAlone _ _) .answer
  case stoCmdIfcond => exact .returning h (p := cmdIfcond) (framed_cmdIfcond _) .flag
  case stoCmdApp => exact .returning h (p := fun c => commandAlone c frameApp) (framed_commandAlone _ _) .answer
  case stoCmdOpcond => exact .returning h (p := fun c => commandAlone c frameOpcond) (framed_commandAlone _ _) .answer
  case stoCmdReadocr => exact .returning h (p := cmdReadocr) (framed_cmdReadocr _) .word
  case stoCmdReadcsd => exact .returning h (p := cmdReadcsd) (framed_cmdReadcsd _) .flag
  case stoCmdReadblk addr => exact .returning h (p := fun c => command c (frameReadblk addr)) (framed_command _ _) .answer
  case stoCmdWriteblk addr => exact .returning h (p := fun c => command c (frameWriteblk addr)) (framed_command _ _) .answer
  case stoReadblk addr => exact .returning h (p := fun c => readBlock c addr) (framed_readBlock _ _) .flag
  case stoFind => exact .returning h (p := findBlock) (framed_findBlock _) fun k => .word (k.map (BitVec.ofNat 32))
  case stoInit => exact .complete h (framed_stoInitProg _)
  case stoWrite => exact .complete h (framed_stoWriteProg _)

/-! ## Steps -/

theorem linesOk_resetBlock (b : Block) : linesOk (resetBlock b) := by
  refine ⟨fun i hi => ?_, nofun⟩
  simp [resetBlock, Block.reset, List.getElem?_replicate] at hi

theorem microStep_linesAfter {s : State} (h : Framed s.blk) (which : LoopOp) (path : List Nat) : LinesAfter (microStep which path s) := by
  unfold microStep
  split
  · next e _ =>
    cases e with
    | fault f => exact .fault f
    | refusal r => exact .refused r
  · refine .next ?_
    cases hfirst : (remaining s.blk.cfg which path).first s.blk with
    | none =>
      rw [advance_of_first_none hfirst]
      exact h.2
    | some x =>
      rw [advance_of_first hfirst]
      exact (((framed_loopProg _ which).follow path).first h hfirst).2

theorem LinesAfter.thenBoot {o : Host.Outcome State Fault Refusal} (h : LinesAfter o) (boot : Boot) : LinesAfter (thenBoot boot o) := by
  cases o with
  | next t => exact .next (h t rfl)
  | fault f => exact .fault f
  | refused r => exact .refused r

theorem bootStep_linesAfter {s : State} (hs : s.Inv) (h : Framed s.blk) : LinesAfter (bootStep s) := by
  unfold bootStep
  cases s.boot with
  | reset => exact .next (linesOk_resetBlock _)
  | startup => exact (microStep_linesAfter h _ _).thenBoot _
  | init => exact (microStep_linesAfter h _ _).thenBoot _
  | begin => exact (microStep_linesAfter h _ _).thenBoot _
  | loop =>
    obtain ⟨-, he⟩ | ⟨-, he⟩ | ⟨which, -, he⟩ := phaseStep_cases hs.blk.phase <;> rw [he]
    · exact .done h.2 (framing_schBegin _)
    · exact .done h.2 (framing_schWait _)
    · exact microStep_linesAfter h _ _
  | _ => exact .next h.2

theorem mainStep_linesAfter {s : State} (hs : s.Inv) (h : Framed s.blk) : LinesAfter (mainStep s) := by
  unfold mainStep
  split
  · exact microStep_linesAfter h _ _
  · refine .next ?_
    unfold startupWait
    split
    · split <;> exact h.2
    · exact h.2
  · exact bootStep_linesAfter hs h

theorem handlerStep_linesAfter {s : State} (hs : s.Inv) (hl : linesOk s.blk) (k : Nat) : LinesAfter (handlerStep k s) := by
  unfold handlerStep
  split
  · next e _ => exact exec_linesAfter hs.blk hl fun v he => by cases e <;> cases he
  · exact .next hl

theorem applyArrival_linesAfter {s : State} (hs : s.Inv) (hl : linesOk s.blk) (a : Arrival) : LinesAfter (applyArrival a s) := by
  cases a with
  | mainLoop => exact mainStep_linesAfter hs ⟨hs.blk.framer, hl⟩
  | handler k => exact handlerStep_linesAfter hs hl k
  | rxByte v => exact .done hl (framing_raiseEvent _ _)
  | twEvent st data => exact .done hl (framing_raiseEvent _ _)
  | quad ab => exact .done hl (framing_applyQuad ab _)
  | tick => exact .done hl (framing_schTick _)
  | pulseTick ch => exact .done hl (framing_pulseTick ch _)
  | runEn level => exact .done hl rfl
  | rst => exact .next (linesOk_resetBlock _)

/-- The decoder gives the arm of data to bytes of that class alone (R90): what it reads is the byte itself, by its encoding. -/
theorem rxClass_of_decode_frmRxData {c : Config} {fmt : Format} {bs rest : List Byte} {v : Byte} (hc : c.ok = true)
    (h : decode c fmt bs = .ok (.frmRxData v, rest)) : rxClass v = .data := by
  obtain ⟨rfl, rfl⟩ := encodeInvertsDecode c fmt bs _ rest hc h
  change decodeRx (v :: rest) = _ at h
  rw [decodeRx] at h
  cases hv : rxClass v with
  | data => rfl
  | start => rw [hv] at h; cases h
  | term => rw [hv] at h; cases h

/-- Settles O17: a scripted instruction is one that the decoder gave, and every other step is an agent's. -/
theorem readyLinesStayFinished : Obligations.ReadyLinesStayFinished := by
  unfold Obligations.ReadyLinesStayFinished
  intro s t hs hl
  suffices h : LinesAfter (step s) from h t
  rw [step, if_pos hs.blk.cfg]
  unfold stepConfigured
  split
  · next w script _ =>
    unfold runWire
    split
    · next i rest hd =>
      refine exec_linesAfter (s := { s with script := scriptRest w.fmt rest script }) hs.blk hl fun v hv => ?_
      exact rxClass_of_decode_frmRxData hs.blk.cfg (hv ▸ hd)
    · exact .refused _
  · next a script _ => exact applyArrival_linesAfter (s := { s with script := script }) ⟨hs.blk, hs.task⟩ hl a
  · exact applyArrival_linesAfter (s := { s with clock := s.clock + 1 }) ⟨hs.blk, hs.task⟩ hl _

end Sys2Proof.Machine
end

section
/-!
SUPPORT. `FRM.DRAIN` with no byte received in between (`41_framer.md` rules R142 and R143): what one slot's turn does, and what the
turns have done after the first slots.
-/

namespace Sys2Proof.Machine

/-! ## Programs over the first numbers -/

/-- What each turn carries on from its number to the next holds at the end. -/
theorem Prog.run_forEach_range {I : Nat → Block → Prop} {body : Nat → Prog Unit} {n : Nat}
    (hstep : ∀ i b, i < n → I i b → I (i + 1) ((body i).run b).2) {b : Block} (h0 : I 0 b) :
    I n ((Prog.forEach body (List.range n)).run b).2 := by
  have hfrom : ∀ m k b, k + m = n → I k b → I n ((Prog.forEach body (List.range' k m)).run b).2 := by
    intro m
    induction m with
    | zero => exact fun k b hk h => hk ▸ h
    | succ m ih =>
      intro k b hk h
      rw [List.range'_succ, Prog.run_forEach_cons]
      exact ih (k + 1) _ (by omega) (hstep k b (by omega) h)
  rw [List.range_eq_range']
  exact hfrom n 0 b (Nat.zero_add n) h0

/-! ## One slot -/

theorem memReadList_succ (a n : Nat) (m : Memory) : memReadList a (n + 1) m = memRead a m :: memReadList (a + 1) n m := by
  simp [memReadList, List.range_succ_eq_map, Function.comp_def, Nat.add_comm, Nat.add_left_comm]

/-- One byte of a slot copied to the raw field (R143). -/
def copyByte (i k : Nat) : Prog Unit :=
  (Prog.ask fun b => (slotByte i k b).toNat).bind fun v => Prog.act (storeRaw i k (BitVec.ofNat 8 v))

theorem copyRaw_eq (c : Config) (i : Nat) : copyRaw c i = Prog.forEach (copyByte i) (List.range c.sentenceCap) := rfl

theorem run_copyByte (i k : Nat) (b : Block) :
    ((copyByte i k).run b).2 = { b with mem := memWrite (rawAddr b.cfg i k) (memRead (slotAddr b.cfg i k) b.mem) b.mem } := by
  simp [copyByte, storeRaw, slotByte]

/-- A byte stored in a raw field is none of those of the slots. -/
theorem memReadList_slot_memWrite_raw {c : Config} {i k l n : Nat} (v : Byte) (m : Memory) (hi : i < c.nSlots)
    (hk : k + n ≤ c.sentenceCap) :
    memReadList (slotAddr c i k) n (memWrite (rawAddr c i l) v m) = memReadList (slotAddr c i k) n m := by
  refine memReadList_congr fun j hj => memRead_memWrite_other ?_ v m
  rw [slotAddr, Nat.add_assoc]
  exact (slotAddr_lt_rawAddr hi (by omega)).ne

theorem run_copyBytes {i n k : Nat} {b : Block} (hi : i < b.cfg.nSlots) (hk : k + n ≤ b.cfg.sentenceCap) :
    ((Prog.forEach (copyByte i) (List.range' k n)).run b).2
      = { b with mem := memWriteList (rawAddr b.cfg i k) (memReadList (slotAddr b.cfg i k) n b.mem) b.mem } := by
  induction n generalizing k b with
  | zero => rfl
  | succ n ih =>
    have hk' : k + 1 + n ≤ b.cfg.sentenceCap := by omega
    rw [List.range'_succ, Prog.run_forEach_cons, run_copyByte,
      ih (b := { b with mem := memWrite (rawAddr b.cfg i k) (memRead (slotAddr b.cfg i k) b.mem) b.mem }) hi hk', memReadList_slot_memWrite_raw _ b.mem hi hk',
      memReadList_succ]
    rfl

theorem run_copyRaw {b : Block} {i : Nat} (hi : i < b.cfg.nSlots) :
    ((copyRaw b.cfg i).run b).2 = { b with mem := memWriteList (rawAddr b.cfg i 0) (slotText b i) b.mem } := by
  rw [copyRaw_eq, List.range_eq_range']
  exact run_copyBytes hi (Nat.le_of_eq (Nat.zero_add _))

/-- The memory after the buffer of slot `i` is copied to its raw field, if it has one (R143). -/
def copiedMem (i : Nat) (b : Block) : Memory :=
  if i < b.cfg.nRaw then memWriteList (rawAddr b.cfg i 0) (slotText b i) b.mem else b.mem

/-- The block after the turn of slot `i` (R142, R143). -/
def drained (i : Nat) (b : Block) : Block :=
  if b.frm.slots[i]? = some .ready then
    { b with record := drainedRecord b b.record i, mem := copiedMem i b, frm := { b.frm with slots := b.frm.slots.set i .free } }
  else b

theorem wf_copiedMem (i : Nat) {b : Block} (h : Memory.wf b.mem = true) : Memory.wf (copiedMem i b) = true := by
  unfold copiedMem
  split
  · exact wf_memWriteList _ _ h
  · exact h

/-- Byte `k` of the raw field of the slot is byte `k` of the slot. -/
theorem memRead_copiedMem_same {i k : Nat} {b : Block} (hm : Memory.wf b.mem = true) (hi : i < b.cfg.nRaw) (hk : k < b.cfg.sentenceCap) :
    memRead (rawAddr b.cfg i k) (copiedMem i b) = memRead (slotAddr b.cfg i k) b.mem := by
  have hlen : k < (slotText b i).length := by rwa [length_slotText]
  rw [copiedMem, if_pos hi]
  exact (memRead_memWriteList _ hm hlen).trans (getElem_memReadList _ hlen)

/-- Every byte outside the raw field of the slot is as before. -/
theorem memRead_copiedMem_other {i a : Nat} {b : Block} (h : i < b.cfg.nRaw → ∀ k, k < b.cfg.sentenceCap → a ≠ rawAddr b.cfg i k) :
    memRead a (copiedMem i b) = memRead a b.mem := by
  unfold copiedMem
  split
  · next hi =>
    refine memRead_memWriteList_other _ _ ?_
    rw [length_slotText]
    by_contra hin
    have hin' : rawAddr b.cfg i 0 ≤ a ∧ a < rawAddr b.cfg i 0 + b.cfg.sentenceCap := by omega
    refine h hi (a - rawAddr b.cfg i 0) (by omega) ?_
    show a = rawAddr b.cfg i 0 + (a - rawAddr b.cfg i 0)
    omega
  · rfl

/-- The copy leaves the text of every slot as it is. -/
theorem memRead_slot_copiedMem {i j k : Nat} {b : Block} (hj : j < b.cfg.nSlots) (hk : k < b.cfg.sentenceCap) :
    memRead (slotAddr b.cfg j k) (copiedMem i b) = memRead (slotAddr b.cfg j k) b.mem :=
  memRead_copiedMem_other fun _ _ _ => (slotAddr_lt_rawAddr hj hk).ne

theorem slotText_congr {b b' : Block} {i : Nat} (hc : b'.cfg = b.cfg)
    (h : ∀ k, k < b.cfg.sentenceCap → memRead (slotAddr b.cfg i k) b'.mem = memRead (slotAddr b.cfg i k) b.mem) :
    slotText b' i = slotText b i := by
  unfold slotText
  rw [hc]
  exact memReadList_congr h

/-- The line is validated, then parsed or counted as failed. -/
theorem run_validate (c : Config) (line : List Byte) (b : Block) :
    ((if checksumOk line then parseLine c line else orStatusProg stChkfail).run b).2
      = { b with record := if checksumOk line then parsedRecord c line b.record
                           else { b.record with status := b.record.status ||| statusBit stChkfail } } := by
  split
  · rw [run_parseLine]
  · rw [run_orStatusProg, orStatus]

theorem run_copyIfRaw {b : Block} {i : Nat} (hi : i < b.cfg.nSlots) :
    ((if i < b.cfg.nRaw then copyRaw b.cfg i else .ret ()).run b).2 = { b with mem := copiedMem i b } := by
  unfold copiedMem
  split
  · exact run_copyRaw hi
  · rfl

/-- The line that is validated is the slot's text as it was before the copy. -/
theorem askedLine_eq {b : Block} {i : Nat} (hi : i < b.cfg.nSlots) :
    ((Prog.askBytes (slotByte i) b.cfg.sentenceCap 0).run { b with mem := copiedMem i b }).1 = slotText b i := by
  rw [Prog.run_askBytes, ← List.range_eq_range']
  exact slotText_congr (b' := { b with mem := copiedMem i b }) rfl fun k hk => memRead_slot_copiedMem hi hk

theorem run_askBytes_block (g : Nat → Block → Byte) (n k : Nat) (b : Block) : ((Prog.askBytes g n k).run b).2 = b := by
  rw [Prog.run_askBytes]

/-- A slot's turn copies its buffer, takes the line from it, and frees it. -/
theorem run_drainTurn {b : Block} {i : Nat} (hi : i < b.cfg.nSlots) : ((drainTurn b.cfg i).run b).2 = drained i b := by
  rw [drainTurn, Prog.run_bind, Prog.run_ask]
  by_cases hr : b.frm.slots[i]? = some .ready
  · rw [if_pos ((readyBit_eq_one i b).mpr hr), drainSlot, Prog.run_andThen, run_copyIfRaw hi, Prog.run_bind, askedLine_eq hi,
      run_askBytes_block, Prog.run_andThen, run_validate, Prog.run_act, drained, if_pos hr, drainedRecord, if_pos hr]
    exact freeReady_of_ready hr
  · rw [if_neg (mt (readyBit_eq_one i b).mp hr), drained, if_neg hr]
    rfl

/-! ## The first slots -/

/-- The turns of the first `n` slots have made the block `b` of the block `b0`. -/
structure DrainedTo (b0 : Block) (n : Nat) (b : Block) : Prop where
  frame : b = { b0 with record := b.record, mem := b.mem, frm := { b0.frm with slots := b.frm.slots } }
  record : b.record = (List.range n).foldl (drainedRecord b0) b0.record
  slots : ∀ i : Nat, b.frm.slots[i]? = if i < n ∧ b0.frm.slots[i]? = some .ready then some .free else b0.frm.slots[i]?
  wf : Memory.wf b.mem = true
  raw : ∀ i k, i < b0.cfg.nRaw → k < b0.cfg.sentenceCap → memRead (rawAddr b0.cfg i k) b.mem =
    if i < n ∧ b0.frm.slots[i]? = some .ready then memRead (slotAddr b0.cfg i k) b0.mem else memRead (rawAddr b0.cfg i k) b0.mem
  other : ∀ a, (∀ i k, i < b0.cfg.nRaw → k < b0.cfg.sentenceCap → a ≠ rawAddr b0.cfg i k) → memRead a b.mem = memRead a b0.mem

theorem DrainedTo.zero {b : Block} (h : Memory.wf b.mem = true) : DrainedTo b 0 b where
  frame := rfl
  record := rfl
  slots i := by simp
  wf := h
  raw i k _ _ := by simp
  other a _ := rfl

variable {b0 b : Block} {n : Nat}

theorem DrainedTo.cfg (h : DrainedTo b0 n b) : b.cfg = b0.cfg := by rw [h.frame]

/-- The slots from `n` on are as they were. -/
theorem DrainedTo.slot (h : DrainedTo b0 n b) : b.frm.slots[n]? = b0.frm.slots[n]? := by
  rw [h.slots, if_neg (by omega)]

/-- The slots' text is as it was. -/
theorem DrainedTo.memRead_slot (h : DrainedTo b0 n b) {j k : Nat} (hj : j < b0.cfg.nSlots) (hk : k < b0.cfg.sentenceCap) :
    memRead (slotAddr b0.cfg j k) b.mem = memRead (slotAddr b0.cfg j k) b0.mem :=
  h.other _ fun _ _ _ _ => (slotAddr_lt_rawAddr hj hk).ne

/-- What the next slot's turn makes of the record is known from the block at the beginning. -/
theorem DrainedTo.drainedRecord_eq (h : DrainedTo b0 n b) (hn : n < b0.cfg.nSlots) (r : SharedRecord) :
    drainedRecord b r n = drainedRecord b0 r n := by
  have htext : slotText b n = slotText b0 n := slotText_congr h.cfg fun k hk => h.memRead_slot hn hk
  rw [drainedRecord, drainedRecord, h.slot, htext, h.cfg]

theorem rawAddr_ne_of_field_ne {c : Config} {i j k l : Nat} (hk : k < c.sentenceCap) (hl : l < c.sentenceCap) (hij : i ≠ j) :
    rawAddr c i k ≠ rawAddr c j l :=
  slotAddr_ne_of_slot_ne hk hl (i := c.nSlots + i) (i' := c.nSlots + j) (by omega)

/-- The turn of a slot that is not `READY` does nothing. -/
theorem DrainedTo.succ_of_not_ready (h : DrainedTo b0 n b) (hr : b0.frm.slots[n]? ≠ some .ready) :
    DrainedTo b0 (n + 1) (drained n b) := by
  have hiff : ∀ i, (i < n + 1 ∧ b0.frm.slots[i]? = some .ready) ↔ (i < n ∧ b0.frm.slots[i]? = some .ready) := by
    intro i
    rw [Nat.lt_succ_iff_lt_or_eq, or_and_right, or_iff_left]
    rintro ⟨rfl, hi⟩
    exact hr hi
  have hrecord : (List.range (n + 1)).foldl (drainedRecord b0) b0.record = (List.range n).foldl (drainedRecord b0) b0.record := by
    rw [List.range_succ, List.foldl_append]
    exact if_neg hr
  rw [drained, if_neg (h.slot ▸ hr)]
  exact {
    frame := h.frame
    record := h.record.trans hrecord.symm
    slots := fun i => by simp only [hiff, h.slots]
    wf := h.wf
    raw := fun i k hi hk => by simp only [hiff, h.raw i k hi hk]
    other := h.other }

/-- The turn of a `READY` slot adds its line to the record, its buffer to its raw field, and frees it. -/
theorem DrainedTo.succ_of_ready (h : DrainedTo b0 n b) (hn : n < b0.cfg.nSlots) (hr : b0.frm.slots[n]? = some .ready) :
    DrainedTo b0 (n + 1) (drained n b) := by
  have hiff : ∀ i, i ≠ n → ((i < n + 1 ∧ b0.frm.slots[i]? = some .ready) ↔ (i < n ∧ b0.frm.slots[i]? = some .ready)) := by
    intro i hi
    rw [Nat.lt_succ_iff_lt_or_eq, or_iff_left hi]
  have hother : ∀ a, (n < b0.cfg.nRaw → ∀ k, k < b0.cfg.sentenceCap → a ≠ rawAddr b0.cfg n k) →
      memRead a (copiedMem n b) = memRead a b.mem := by
    rw [← h.cfg]
    exact fun a => memRead_copiedMem_other
  have hready : b.frm.slots[n]? = some .ready := h.slot.trans hr
  rw [drained, if_pos hready]
  exact {
    frame := congrArg (fun x : Block => { x with
      record := drainedRecord b b.record n, mem := copiedMem n b, frm := { x.frm with slots := b.frm.slots.set n .free } }) h.frame
    record := by
      rw [h.drainedRecord_eq hn, List.range_succ, List.foldl_append, ← h.record]
      rfl
    slots := fun i => by
      by_cases hi : i = n
      · subst hi
        rw [if_pos ⟨Nat.lt_succ_self i, hr⟩]
        exact List.getElem?_set_self (List.getElem?_eq_some_iff.mp hready).1
      · rw [if_congr (hiff i hi) rfl rfl, ← h.slots]
        exact List.getElem?_set_ne (Ne.symm hi)
    wf := wf_copiedMem n h.wf
    raw := fun i k hi hk => by
      by_cases hin : i = n
      · subst hin
        have hcopied := memRead_copiedMem_same (k := k) h.wf (h.cfg.symm ▸ hi) (h.cfg.symm ▸ hk)
        rw [h.cfg, h.memRead_slot hn hk] at hcopied
        rw [if_pos ⟨Nat.lt_succ_self i, hr⟩]
        exact hcopied
      · rw [if_congr (hiff i hin) rfl rfl, ← h.raw i k hi hk]
        exact hother _ fun _ l hl => rawAddr_ne_of_field_ne hk hl hin
    other := fun a ha => (hother a fun hraw k hk => ha n k hraw hk).trans (h.other a ha) }

theorem DrainedTo.succ (h : DrainedTo b0 n b) (hn : n < b0.cfg.nSlots) : DrainedTo b0 (n + 1) (drained n b) := by
  by_cases hr : b0.frm.slots[n]? = some .ready
  · exact h.succ_of_ready hn hr
  · exact h.succ_of_not_ready hr

/-- The turns of all slots, one after the other. -/
theorem drainedTo_run {b : Block} (hm : Memory.wf b.mem = true) :
    DrainedTo b b.cfg.nSlots ((Prog.forEach (drainTurn b.cfg) (List.range b.cfg.nSlots)).run b).2 := by
  refine Prog.run_forEach_range (I := DrainedTo b) (fun i b' hi h => ?_) (.zero hm)
  rw [← h.cfg, run_drainTurn (h.cfg.symm ▸ hi)]
  exact h.succ hi

/-! ## The latches and the whole operation -/

theorem latchStatus_latchBits (f : Framer) (status : U32) : latchStatus (latchBits f) status = latchedStatus f status := by
  unfold latchStatus latchBits latchedStatus
  cases f.nobuf <;> cases f.restart <;> cases f.overflow <;> rfl

/-- The block when the latches have been moved to the status word (R142). -/
def latched (b : Block) : Block :=
  { clearLatches b with record := { b.record with status := latchedStatus b.frm b.record.status } }

theorem run_frmDrainProg (b : Block) :
    ((frmDrainProg b.cfg).run b).2
      = setPhase 2#4 ((Prog.forEach (drainTurn b.cfg) (List.range b.cfg.nSlots)).run (latched b)).2 := by
  rw [frmDrainProg, Prog.run_bind, Prog.run_micro, Prog.run_ret, Prog.run_andThen, modifyReg, Prog.run_bind, run_readReg,
    run_write_statusReg, Prog.run_andThen, run_endPhase, latched, ← latchStatus_latchBits]
  rfl

theorem exec_frmDrain (s : State) : exec .frmDrain s = complete (frmDrainProg s.blk.cfg) s := rfl

/-- Settles O28: what the turns of all slots have done to the block with its latches moved. -/
theorem frmDrainDeliversReadyLines : Obligations.FrmDrainDeliversReadyLines := by
  unfold Obligations.FrmDrainDeliversReadyLines
  intro s hm hlen hraw
  have h := drainedTo_run (b := latched s.blk) hm
  have hin : ∀ i : Nat, (i < s.blk.cfg.nSlots ∧ s.blk.frm.slots[i]? = some .ready) ↔ s.blk.frm.slots[i]? = some .ready := fun i =>
    and_iff_right_of_imp fun hi => hlen ▸ (List.getElem?_eq_some_iff.mp hi).1
  rw [exec_frmDrain, complete_next]
  refine ⟨_, rfl, ?_⟩
  rw [State.mapBlk, run_frmDrainProg]
  exact ⟨congrArg (fun b => { s with blk := setPhase 2#4 b }) h.frame, h.record,
    fun i => (h.slots i).trans (if_congr (hin i) rfl rfl), fun i k hi hk => (h.raw i k hi hk).trans (if_congr (hin i) rfl rfl), h.other⟩

end Sys2Proof.Machine
end

section
/-!
SUPPORT. The verdict of `PRS.CHK` (`42_parser.md` rules R158 and R159).
-/

namespace Sys2Proof.Machine

/-! ## The XOR of the payload -/

/-- A bit flipped in the start value is flipped in the XOR. -/
theorem foldl_xor_start (bs : List Byte) (acc m : Byte) : bs.foldl (· ^^^ ·) (acc ^^^ m) = bs.foldl (· ^^^ ·) acc ^^^ m := by
  induction bs generalizing acc with
  | nil => rfl
  | cons b bs ih => rw [List.foldl_cons, List.foldl_cons, BitVec.xor_assoc, BitVec.xor_comm m, ← BitVec.xor_assoc, ih]

/-- The bits flipped in one byte are the bits flipped in the XOR. -/
theorem foldl_xor_set {bs : List Byte} {j : Nat} {v : Byte} (h : bs[j]? = some v) (acc m : Byte) :
    (bs.set j (v ^^^ m)).foldl (· ^^^ ·) acc = bs.foldl (· ^^^ ·) acc ^^^ m := by
  induction bs generalizing acc j with
  | nil => cases h
  | cons b bs ih =>
    cases j with
    | zero =>
      obtain rfl : b = v := Option.some.inj h
      rw [List.set_cons_zero, List.foldl_cons, List.foldl_cons, ← BitVec.xor_assoc, foldl_xor_start]
    | succ j => exact ih h _

/-! ## The scan -/

/-- The scan of `bs` ends at the `*` at index `i`, with digits that name the XOR of `acc` and the bytes before it (R158). -/
def ScanEndsAt (acc : Byte) (bs : List Byte) (i : Nat) : Prop :=
  bs[i]? = some chkDelim ∧ (∀ j, j < i → bs[j]? ≠ some chkDelim ∧ bs[j]? ≠ some 0#8)
    ∧ chkDigits ((bs.take i).foldl (· ^^^ ·) acc) (bs.drop (i + 1)) = true

theorem chkDigits_iff (acc : Byte) (bs : List Byte) :
    chkDigits acc bs = true ↔ ∃ x y, bs[0]?.bind hexVal = some x ∧ bs[1]?.bind hexVal = some y ∧ acc = x * 16#8 + y := by
  match bs with
  | [] => simp [chkDigits]
  | [h] => simp [chkDigits]
  | h :: l :: _ => cases hh : hexVal h <;> cases hl : hexVal l <;> simp [chkDigits, hh, hl]

theorem scanEndsAt_zero_iff (acc b : Byte) (bs : List Byte) :
    ScanEndsAt acc (b :: bs) 0 ↔ b = chkDelim ∧ chkDigits acc bs = true := by
  simp [ScanEndsAt]

theorem scanEndsAt_succ_iff (acc b : Byte) (bs : List Byte) (i : Nat) :
    ScanEndsAt acc (b :: bs) (i + 1) ↔ b ≠ chkDelim ∧ b ≠ 0#8 ∧ ScanEndsAt (acc ^^^ b) bs i := by
  have hbefore : (∀ j, j < i + 1 → (b :: bs)[j]? ≠ some chkDelim ∧ (b :: bs)[j]? ≠ some 0#8)
      ↔ (b ≠ chkDelim ∧ b ≠ 0#8) ∧ ∀ j, j < i → bs[j]? ≠ some chkDelim ∧ bs[j]? ≠ some 0#8 :=
    Nat.forall_lt_succ_left.trans (and_congr_left' (by simp))
  rw [ScanEndsAt, hbefore, ScanEndsAt]
  simp only [List.getElem?_cons_succ, List.take_succ_cons, List.foldl_cons, List.drop_succ_cons]
  tauto

/-- The scan accepts exactly when it ends somewhere. -/
theorem chkScan_iff (acc : Byte) (bs : List Byte) : chkScan acc bs = true ↔ ∃ i, ScanEndsAt acc bs i := by
  induction bs generalizing acc with
  | nil => simp [chkScan, ScanEndsAt]
  | cons b bs ih =>
    have hstep : (∃ i, ScanEndsAt acc (b :: bs) i)
        ↔ (b = chkDelim ∧ chkDigits acc bs = true) ∨ b ≠ chkDelim ∧ b ≠ 0#8 ∧ ∃ i, ScanEndsAt (acc ^^^ b) bs i := by
      rw [← Nat.or_exists_add_one]
      simp only [scanEndsAt_zero_iff, scanEndsAt_succ_iff, exists_and_left]
    rw [hstep, ← ih, chkScan]
    by_cases hstar : b = chkDelim
    · simp [hstar]
    · by_cases hnull : b = 0#8 <;> simp [hstar, hnull]

/-- The scan ends at the first `*` only. -/
theorem ScanEndsAt.eq_of_first {acc : Byte} {bs : List Byte} {i n : Nat} (h : ScanEndsAt acc bs i) (hn : bs[n]? = some chkDelim)
    (hfirst : ∀ m, m < n → bs[m]? ≠ some chkDelim) : i = n := by
  obtain ⟨hi, hbefore, -⟩ := h
  exact le_antisymm (Nat.le_of_not_lt fun hlt => (hbefore n hlt).1 hn) (Nat.le_of_not_lt fun hlt => hfirst i hlt hi)

/-- Two scans that end at one place with the same bytes after it have the same XOR before it. -/
theorem ScanEndsAt.foldl_eq {acc : Byte} {bs bs' : List Byte} {i : Nat} (h : ScanEndsAt acc bs i) (h' : ScanEndsAt acc bs' i)
    (hrest : bs'.drop (i + 1) = bs.drop (i + 1)) : (bs'.take i).foldl (· ^^^ ·) acc = (bs.take i).foldl (· ^^^ ·) acc := by
  obtain ⟨-, -, hd⟩ := h
  obtain ⟨-, -, hd'⟩ := h'
  rw [hrest] at hd'
  obtain ⟨x, y, hx, hy, hxor⟩ := (chkDigits_iff _ _).mp hd
  obtain ⟨x', y', hx', hy', hxor'⟩ := (chkDigits_iff _ _).mp hd'
  rw [hxor, hxor', Option.some.inj (hx'.symm.trans hx), Option.some.inj (hy'.symm.trans hy)]

/-- A flipped bit before the `*` that makes no new `*` is never accepted (R159). -/
theorem ScanEndsAt.not_flipped {acc : Byte} {bs : List Byte} {i j : Nat} {v m : Byte} (h : ScanEndsAt acc bs i) (hj : j < i)
    (hv : bs[j]? = some v) (hm : m ≠ 0#8) (hstar : v ^^^ m ≠ chkDelim) (n : Nat) : ¬ScanEndsAt acc (bs.set j (v ^^^ m)) n := by
  intro h'
  have hi : (bs.set j (v ^^^ m))[i]? = some chkDelim := by rw [List.getElem?_set_ne hj.ne, h.1]
  have hfirst : ∀ k, k < i → (bs.set j (v ^^^ m))[k]? ≠ some chkDelim := by
    intro k hk
    by_cases hkj : j = k
    · subst hkj
      rw [List.getElem?_set_self (List.getElem?_eq_some_iff.mp hv).1]
      exact fun he => hstar (Option.some.inj he)
    · rw [List.getElem?_set_ne hkj]
      exact (h.2.1 k hk).1
  obtain rfl : n = i := h'.eq_of_first hi hfirst
  have hxor := h.foldl_eq h' (List.drop_set_of_lt (by omega))
  rw [List.take_set, foldl_xor_set (by rw [List.getElem?_take_of_lt hj, hv])] at hxor
  exact hm (by simpa using hxor)

/-! ## PRS.CHK -/

theorem exec_prsChk (line : List Byte) (s : State) :
    exec (.prsChk line) s = .next (s.mapBlk fun b => { b with ret := .flag (checksumOk line) }) := rfl

/-- The end of the scan in the indices of the buffer, whose byte 0 is not examined (R158). -/
theorem scanEndsAt_drop_one_iff (buf : List Byte) (i : Nat) :
    ScanEndsAt 0#8 (buf.drop 1) i ↔ ∃ x y : Byte, buf[i + 1]? = some 0x2A#8
      ∧ (∀ j, 1 ≤ j → j < i + 1 → buf[j]? ≠ some 0x2A#8 ∧ buf[j]? ≠ some 0#8)
      ∧ buf[i + 1 + 1]?.bind hexVal = some x ∧ buf[i + 1 + 2]?.bind hexVal = some y
      ∧ ((buf.take (i + 1)).drop 1).foldl (· ^^^ ·) 0#8 = x * 16#8 + y := by
  have hbefore : (∀ j, 1 ≤ j → j < i + 1 → buf[j]? ≠ some 0x2A#8 ∧ buf[j]? ≠ some 0#8)
      ↔ ∀ j, j < i → buf[j + 1]? ≠ some 0x2A#8 ∧ buf[j + 1]? ≠ some 0#8 :=
    ⟨fun h j hj => h (j + 1) (by omega) (by omega), fun h j h1 hj => by
      obtain ⟨j, rfl⟩ := Nat.exists_eq_add_of_le' h1
      exact h j (by omega)⟩
  rw [ScanEndsAt, chkDigits_iff, hbefore, List.drop_take, Nat.add_sub_cancel]
  simp only [List.getElem?_drop, List.drop_drop, Nat.add_comm 1, exists_and_left, chkDelim]

/-- Settles O29: the verdict is the scan's, which ends at the first `*`. -/
theorem prsChkVerdict : Obligations.PrsChkVerdict := by
  unfold Obligations.PrsChkVerdict
  intro buf s
  refine ⟨checksumOk buf, exec_prsChk buf s, (chkScan_iff _ _).trans ?_⟩
  simp only [scanEndsAt_drop_one_iff]
  refine ⟨fun ⟨i, x, y, h⟩ => ⟨i + 1, x, y, Nat.le_add_left 1 i, h⟩, fun ⟨i, x, y, h1, h⟩ => ?_⟩
  obtain ⟨i, rfl⟩ := Nat.exists_eq_add_of_le' h1
  exact ⟨i, x, y, h⟩

/-- Settles O30: the digits stay and the XOR changes. -/
theorem prsChkDetectsFlippedBit : Obligations.PrsChkDetectsFlippedBit := by
  unfold Obligations.PrsChkDetectsFlippedBit
  intro buf i j k v s hok hi hfirst hj hji hk hv hstar
  have hbit : (1#8 <<< k : Byte) ≠ 0#8 := by
    interval_cases k <;> decide
  obtain ⟨i, rfl⟩ := Nat.exists_eq_add_of_le' (hj.trans hji.le)
  obtain ⟨j, rfl⟩ := Nat.exists_eq_add_of_le' hj
  cases buf with
  | nil => cases hv
  | cons b bs =>
    obtain ⟨n, hn⟩ := (chkScan_iff _ _).mp hok
    obtain rfl : n = i := hn.eq_of_first hi fun m hm => hfirst (m + 1) (by omega) (by omega)
    have hbad : ¬checksumOk ((b :: bs).set (j + 1) (v ^^^ 1#8 <<< k)) = true := fun h =>
      let ⟨l, hl⟩ := (chkScan_iff _ _).mp h
      hn.not_flipped (by omega) hv hbit hstar l hl
    rw [exec_prsChk, Bool.eq_false_iff.mpr hbad]

end Sys2Proof.Machine
end

section
/-!
SUPPORT. The two sentence types, accepted and rejected, through the parser's dispatch and through each arm (`42_parser.md` rules
R162, R164, R166, R168).
-/

namespace Sys2Proof.Machine

/-! ## What a line writes -/

theorem complete_parseLine (c : Config) (line : List Byte) (s : State) :
    complete (parseLine c line) s = done (fun b => { b with record := parsedRecord c line b.record }) s := by
  simp only [complete_next, run_parseLine, done]

/-- A line that leaves the record as it is leaves the state as it is. -/
theorem complete_parseLine_eq_self {c : Config} {line : List Byte} {s : State}
    (h : parsedRecord c line s.blk.record = s.blk.record) : complete (parseLine c line) s = .next s := by
  rw [complete_parseLine]
  exact done_eq_self (congrArg (fun r => { s.blk with record := r }) h)

theorem fieldIs_iff (f : List Byte) (b : Byte) : fieldIs f b = true ↔ f.head? = some b := beq_iff_eq

theorem negateIf_eq (f : List Byte) (b : Byte) (v : F32) : negateIf f b v = if f.head? = some b then f32Neg v else v :=
  if_congr (fieldIs_iff f b) rfl rfl

theorem ggaAccepted_iff (c : Config) (line : List Byte) :
    ggaAccepted c line = true ↔ field line 6 ≠ [] ∧ (field line 6).head? ≠ some c.nofixSentinel := by
  simp [ggaAccepted, fieldIs]

theorem take_typeGga_append (rest : List Byte) : (typeGga ++ rest).take 6 = typeGga := List.take_left' (l₁ := typeGga) rfl

theorem parsedRecord_gga (c : Config) (rest : List Byte) (r : SharedRecord) :
    parsedRecord c (typeGga ++ rest) r = if ggaAccepted c (typeGga ++ rest) then ggaRecord c (typeGga ++ rest) r else r :=
  if_pos (take_typeGga_append rest)

theorem parsedRecord_rmc {c : Config} (hlen : c.typeRmc.length = 6) (hne : c.typeRmc ≠ typeGga) (rest : List Byte) (r : SharedRecord) :
    parsedRecord c (c.typeRmc ++ rest) r = if rmcAccepted c (c.typeRmc ++ rest) then rmcRecord (c.typeRmc ++ rest) r else r := by
  rw [parsedRecord, List.take_left' hlen, if_neg hne, if_pos rfl]

theorem parsedRecord_other {c : Config} {line : List Byte} (hgga : line.take 6 ≠ typeGga) (hrmc : line.take 6 ≠ c.typeRmc)
    (r : SharedRecord) : parsedRecord c line r = r := by
  rw [parsedRecord, if_neg hgga, if_neg hrmc]

/-! ## The three ways to parse a line of a type -/

theorem exec_prsParse (line : List Byte) (s : State) : exec (.prsParse line) s = complete (parseLine s.blk.cfg line) s := rfl

theorem exec_prsGga (line : List Byte) (s : State) : exec (.prsGga line) s = complete (parseGga s.blk.cfg line) s := rfl

theorem exec_prsRmc (line : List Byte) (s : State) : exec (.prsRmc line) s = complete (parseRmc s.blk.cfg line) s := rfl

theorem exec_prsParseGga (rest : List Byte) (s : State) :
    exec (.prsParseGga rest) s = complete (parseGga s.blk.cfg (typeGga ++ rest)) s := rfl

theorem exec_prsParseRmc (rest : List Byte) (s : State) :
    exec (.prsParseRmc rest) s = complete (parseRmc s.blk.cfg (s.blk.cfg.typeRmc ++ rest)) s := rfl

theorem exec_prsParseIgnore (line : List Byte) (s : State) : exec (.prsParseIgnore line) s = .next s := rfl

theorem parseLine_gga (c : Config) (rest : List Byte) : parseLine c (typeGga ++ rest) = parseGga c (typeGga ++ rest) :=
  if_pos (take_typeGga_append rest)

theorem parseLine_rmc {c : Config} (hlen : c.typeRmc.length = 6) (hne : c.typeRmc ≠ typeGga) (rest : List Byte) :
    parseLine c (c.typeRmc ++ rest) = parseRmc c (c.typeRmc ++ rest) := by
  rw [parseLine, List.take_left' hlen, if_neg hne, if_pos rfl]

/-- The operation, the dispatch and the arm are one operation on a line of type `$GPGGA`. -/
theorem exec_ggaForms (s : State) (rest : List Byte) :
    ∀ i ∈ [Instr.prsGga (typeGga ++ rest), .prsParse (typeGga ++ rest), .prsParseGga rest],
      exec i s = complete (parseLine s.blk.cfg (typeGga ++ rest)) s := by
  simp only [List.forall_mem_cons, exec_prsGga, exec_prsParse, exec_prsParseGga, parseLine_gga, true_and]
  exact List.forall_mem_nil _

/-- The operation, the dispatch and the arm are one operation on a line of the configured course type. -/
theorem exec_rmcForms {s : State} (hlen : s.blk.cfg.typeRmc.length = 6) (hne : s.blk.cfg.typeRmc ≠ typeGga) (rest : List Byte) :
    ∀ i ∈ [Instr.prsRmc (s.blk.cfg.typeRmc ++ rest), .prsParse (s.blk.cfg.typeRmc ++ rest), .prsParseRmc rest],
      exec i s = complete (parseLine s.blk.cfg (s.blk.cfg.typeRmc ++ rest)) s := by
  simp only [List.forall_mem_cons, exec_prsRmc, exec_prsParse, exec_prsParseRmc, parseLine_rmc hlen hne, true_and]
  exact List.forall_mem_nil _

/-- Settles O31: each form writes the record of its type. -/
theorem prsAcceptedSentencesWrite : Obligations.PrsAcceptedSentencesWrite := by
  unfold Obligations.PrsAcceptedSentencesWrite
  refine ⟨fun s rest => ?_, fun s rest hlen hne => ?_⟩
  · intro hquality hfix i hi
    have hrecord := (parsedRecord_gga s.blk.cfg rest s.blk.record).trans (if_pos ((ggaAccepted_iff _ _).mpr ⟨hquality, hfix⟩))
    rw [ggaRecord, ggaLat, ggaLon, negateIf_eq, negateIf_eq] at hrecord
    refine (exec_ggaForms s rest i hi).trans ((complete_parseLine _ _ s).trans (done_eq_next ?_))
    exact congrArg (fun r => { s.blk with record := r }) hrecord
  · intro hvalid i hi
    have hrecord := (parsedRecord_rmc hlen hne rest s.blk.record).trans (if_pos ((fieldIs_iff _ _).mpr hvalid))
    rw [rmcRecord, rmcMagvar, negateIf_eq] at hrecord
    refine (exec_rmcForms hlen hne rest i hi).trans ((complete_parseLine _ _ s).trans (done_eq_next ?_))
    exact congrArg (fun r => { s.blk with record := r }) hrecord

/-- Settles O32: in each of the three cases the line leaves the record as it is. -/
theorem prsRejectedWritesNothing : Obligations.PrsRejectedWritesNothing := by
  unfold Obligations.PrsRejectedWritesNothing
  intro s rest line hlen hne
  refine ⟨?_, ?_, fun hgga hrmc => ?_⟩
  · intro hfix i hi
    have hreject : ¬ggaAccepted s.blk.cfg (typeGga ++ rest) = true := by
      rw [ggaAccepted_iff, not_and_or, not_not, not_not]
      exact hfix
    exact (exec_ggaForms s rest i hi).trans (complete_parseLine_eq_self ((parsedRecord_gga _ _ _).trans (if_neg hreject)))
  · intro hinvalid i hi
    have hreject : ¬rmcAccepted s.blk.cfg (s.blk.cfg.typeRmc ++ rest) = true := mt (fieldIs_iff _ _).mp hinvalid
    exact (exec_rmcForms hlen hne rest i hi).trans (complete_parseLine_eq_self ((parsedRecord_rmc hlen hne _ _).trans (if_neg hreject)))
  · simp only [List.forall_mem_cons, exec_prsParseIgnore, true_and, exec_prsParse]
    exact ⟨complete_parseLine_eq_self (parsedRecord_other hgga hrmc _), List.forall_mem_nil _⟩

end Sys2Proof.Machine
end

section
/-!
SUPPORT. The numbers of fields (`42_parser.md` rules R160 and R165).
-/

namespace Sys2Proof.Machine

/-! ## Digits -/

theorem isDigit_iff (d : Byte) : isDigit d = true ↔ decimalDigit d := by
  rw [isDigit, Bool.and_eq_true, decide_eq_true_eq, decide_eq_true_eq, decimalDigit]

/-- The digits at the front of a text and what follows them, where no further digit follows. -/
theorem takeWhile_dropWhile_digits {ds rest : List Byte} (hds : ∀ d ∈ ds, decimalDigit d)
    (hrest : ∀ d, rest.head? = some d → ¬decimalDigit d) :
    (ds ++ rest).takeWhile isDigit = ds ∧ (ds ++ rest).dropWhile isDigit = rest := by
  have hdigits : ∀ d ∈ ds, isDigit d = true := fun d hd => (isDigit_iff d).mpr (hds d hd)
  rw [List.takeWhile_append_of_pos hdigits, List.dropWhile_append_of_pos hdigits]
  cases rest with
  | nil => simp
  | cons b bs =>
    have hb : ¬isDigit b = true := mt (isDigit_iff b).mp (hrest b rfl)
    rw [List.takeWhile_cons_of_neg hb, List.dropWhile_cons_of_neg hb, List.append_nil]
    exact ⟨rfl, rfl⟩

theorem numberOf_append_singleton (ds : List Byte) (d : Byte) : numberOf (ds ++ [d]) = numberOf ds * 10 + (d.toNat - 48) := by
  rw [numberOf, List.reverse_append, List.reverse_singleton, List.singleton_append, List.map_cons, Nat.ofDigits_cons, Nat.add_comm,
    Nat.mul_comm]
  rfl

/-- Reading digits from the first to the last gives the number they name. -/
theorem digitsValue_eq_numberOf {ds : List Byte} (hds : ∀ d ∈ ds, decimalDigit d) : digitsValue ds = numberOf ds := by
  induction ds using List.reverseRecOn with
  | nil => rfl
  | append_singleton ds d ih =>
    obtain ⟨hlo, -⟩ := hds d (by simp)
    have hd : (d - 0x30#8).toNat = d.toNat - 48 := BitVec.toNat_sub_of_le hlo
    rw [numberOf_append_singleton, ← ih fun e he => hds e (by simp [he]), ← hd, digitsValue, List.foldl_append]
    rfl

/-- `decint` takes nine digits, or fewer where no further digit follows. -/
theorem decInt_append {ds rest : List Byte} (hds : ∀ d ∈ ds, decimalDigit d) (hlen : ds.length ≤ 9)
    (hrest : ds.length = 9 ∨ ∀ d, rest.head? = some d → ¬decimalDigit d) : decInt (ds ++ rest) = BitVec.ofNat 32 (numberOf ds) := by
  have htake : ((ds ++ rest).takeWhile isDigit).take 9 = ds := by
    rcases hrest with hnine | hrest
    · rw [List.takeWhile_append_of_pos fun d hd => (isDigit_iff d).mpr (hds d hd), List.take_left' hnine]
    · rw [(takeWhile_dropWhile_digits hds hrest).1, List.take_of_length_le hlen]
  rw [decInt, htake, digitsValue_eq_numberOf hds]

/-! ## The parts of a decimal field -/

theorem decDigits_of_decimalText {sign whole frac rest : List Byte} {point : Bool} (h : decimalText sign whole point frac rest) :
    decDigits (whole ++ ((if point then 0x2E#8 :: frac else []) ++ rest)) = (whole, frac) := by
  obtain ⟨-, hdigits, hpoint, hrest, -⟩ := h
  have hwhole : ∀ d ∈ whole, decimalDigit d := fun d hd => hdigits d (List.mem_append_left _ hd)
  have hfrac : ∀ d ∈ frac, decimalDigit d := fun d hd => hdigits d (List.mem_append_right _ hd)
  cases point with
  | true =>
    have hdot : ∀ d, ((0x2E#8 :: frac) ++ rest).head? = some d → ¬decimalDigit d := fun d hd => by
      obtain rfl : 0x2E#8 = d := Option.some.inj hd
      exact mt (isDigit_iff _).mpr (by decide)
    obtain ⟨htake, hdrop⟩ := takeWhile_dropWhile_digits hwhole hdot
    rw [if_pos rfl, decDigits, htake, hdrop, List.cons_append]
    exact congrArg (Prod.mk whole) (takeWhile_dropWhile_digits hfrac hrest).1
  | false =>
    obtain ⟨rfl, hnodot⟩ := hpoint rfl
    obtain ⟨htake, hdrop⟩ := takeWhile_dropWhile_digits hwhole hrest
    rw [if_neg Bool.false_ne_true, List.nil_append, decDigits, htake, hdrop]
    split
    · exact absurd rfl hnodot
    · rfl

theorem dec_of_unsigned {f : List Byte} (hplus : f.head? ≠ some 0x2B#8) (hminus : f.head? ≠ some 0x2D#8) :
    dec f = decSigned false f := by
  unfold dec
  split
  · exact absurd rfl hminus
  · exact absurd rfl hplus
  · rfl

/-- A text without a sign does not begin with one: its first byte is a digit, the point, or a byte of the rest. -/
theorem head?_ne_sign {sign whole frac rest : List Byte} {point : Bool} (h : decimalText sign whole point frac rest) (hs : sign = []) :
    (whole ++ ((if point then 0x2E#8 :: frac else []) ++ rest)).head? ≠ some 0x2B#8
      ∧ (whole ++ ((if point then 0x2E#8 :: frac else []) ++ rest)).head? ≠ some 0x2D#8 := by
  obtain ⟨-, hdigits, -, -, hnosign⟩ := h
  cases whole with
  | cons d ds =>
    obtain ⟨hlo, -⟩ := hdigits d (by simp)
    refine ⟨fun he => ?_, fun he => ?_⟩ <;> obtain rfl := Option.some.inj he <;> exact absurd hlo (by decide)
  | nil =>
    cases point with
    | true => exact ⟨by simp, by simp⟩
    | false => exact hnosign hs rfl rfl

/-- `dec` reads the unsigned part with the sign before it. -/
theorem dec_of_decimalText {sign whole frac rest : List Byte} {point : Bool} (h : decimalText sign whole point frac rest) :
    dec (sign ++ whole ++ (if point then 0x2E#8 :: frac else []) ++ rest)
      = decSigned (decide (sign = [0x2D#8])) (whole ++ ((if point then 0x2E#8 :: frac else []) ++ rest)) := by
  rw [List.append_assoc, List.append_assoc]
  have ⟨hsign, _⟩ := h
  rcases hsign with rfl | rfl | rfl
  · obtain ⟨hplus, hminus⟩ := head?_ne_sign h rfl
    exact dec_of_unsigned hplus hminus
  · rfl
  · rfl

/-! ## The value of a decimal field -/

theorem roundMag_zero_left (den : Nat) : roundMag 0 den = 0 := by
  simp [roundMag, roundDiv]

theorem roundMag_of_finite {num den : Nat} (hd : 0 < den) (h : num < (2 ^ 25 - 1) * 2 ^ 252 * den) :
    roundMag num den = magShift num den * 2 ^ 23 + magDigits num den ∧ roundMag num den < 0x7F800000 := by
  rw [← roundMag_lt_inf_iff num hd] at h
  rw [roundMag_eq, min_eq_left h.le]
  exact ⟨rfl, h⟩

theorem roundMag_of_overflow {num den : Nat} (hd : 0 < den) (h : (2 ^ 25 - 1) * 2 ^ 252 * den ≤ num) :
    roundMag num den = 0x7F800000 := by
  rw [← Nat.not_lt, ← roundMag_lt_inf_iff num hd, Nat.not_lt] at h
  rw [roundMag_eq, min_eq_right h]

theorem roundMag_le_inf (num den : Nat) : roundMag num den ≤ 0x7F800000 := min_le_right _ _

/-- The magnitude of a rounded value in its shift and significand. -/
theorem f32Mag_pack_roundMag (s : Bool) {num den : Nat} (hd : 0 < den) (h : num < (2 ^ 25 - 1) * 2 ^ 252 * den) :
    f32Mag (f32Pack s (roundMag num den)) = magDigits num den * 2 ^ magShift num den := by
  obtain ⟨heq, hlt⟩ := roundMag_of_finite hd h
  rw [heq] at hlt ⊢
  exact f32Mag_pack_scaled s (magDigits_le num hd) (le_magDigits hd) (by omega)

/-- No magnitude is nearer than the rounded one, whatever the signs. -/
theorem f32Mag_pack_roundMag_asNear (s : Bool) {num den : Nat} (hd : 0 < den) (h : num < (2 ^ 25 - 1) * 2 ^ 252 * den) (y : F32) :
    AsNear num den (f32Mag (f32Pack s (roundMag num den))) (f32Mag y) ((f32Pack s (roundMag num den)).getLsbD 0 = false) := by
  obtain ⟨heq, hlt⟩ := roundMag_of_finite hd h
  have hy : ((2 ^ magShift num den : Nat) : Int) ∣ f32Mag y ∨ (f32Mag y : Int).natAbs < 2 ^ 23 * 2 ^ magShift num den := by
    rw [Int.natCast_dvd_natCast, Int.natAbs_natCast]
    exact f32Mag_dvd_or_lt y _
  rw [f32Mag_pack_roundMag s hd h, heq]
  exact (magDigits_asNear num hd hy).imp (f32Pack_getLsbD_zero s (by omega))

/-- The value of a field with the digits `whole` and `frac`: their number rounded, with the field's sign where it is not zero. -/
theorem decSigned_eq_pack {neg : Bool} {f whole frac : List Byte} (hf : decDigits f = (whole, frac))
    (hdigits : ∀ d ∈ whole ++ frac, decimalDigit d) :
    ∃ s, decSigned neg f = f32Pack s (roundMag (numberOf (whole ++ frac) * f32One) (10 ^ frac.length))
      ∧ (neg = false → s = false) ∧ (whole ++ frac = [] → s = false)
      ∧ (roundMag (numberOf (whole ++ frac) * f32One) (10 ^ frac.length) ≠ 0 → s = neg) := by
  simp only [decSigned, hf, digitsValue_eq_numberOf hdigits, f32OfDecimal]
  by_cases hempty : whole ++ frac = []
  · have hzero : roundMag (numberOf (whole ++ frac) * f32One) (10 ^ frac.length) = 0 := by
      rw [hempty, show numberOf [] = 0 from rfl, Nat.zero_mul, roundMag_zero_left]
    rw [if_pos hempty, hzero]
    exact ⟨false, rfl, fun _ => rfl, fun _ => rfl, fun h => absurd rfl h⟩
  · rw [if_neg hempty]
    have hp := roundMag_le_inf (numberOf (whole ++ frac) * f32One) (10 ^ frac.length)
    generalize roundMag (numberOf (whole ++ frac) * f32One) (10 ^ frac.length) = p at hp
    split
    · next hmag =>
      obtain rfl : p = 0 := by
        by_contra h0
        exact absurd hmag (f32Mag_pack_pos neg (Nat.pos_of_ne_zero h0) (by omega)).ne'
      exact ⟨_, rfl, fun h => by rw [h, Bool.false_and], fun h => absurd h hempty, fun h => absurd rfl h⟩
    · exact ⟨neg, rfl, id, fun h => absurd h hempty, fun _ => rfl⟩

theorem f32Mag_pack_zero (s : Bool) : f32Mag (f32Pack s 0) = 0 := by
  cases s <;> decide

/-! ## The greatest integer not above a value -/

/-- A magnitude of at most 24 bits in some unit is kept by rounding. -/
theorem f32Mag_pack_roundMag_exact (s : Bool) {m : Nat} (hm : ∀ k, 2 ^ k ∣ m ∨ m < 2 ^ 23 * 2 ^ k) (h : m < (2 ^ 25 - 1) * 2 ^ 252) :
    f32Mag (f32Pack s (roundMag m 1)) = m := by
  have hlt : m < (2 ^ 25 - 1) * 2 ^ 252 * 1 := by omega
  have hfits : ((2 ^ magShift m 1 : Nat) : Int) ∣ m ∨ (m : Int).natAbs < 2 ^ 23 * 2 ^ magShift m 1 := by
    rw [Int.natCast_dvd_natCast, Int.natAbs_natCast]
    exact hm _
  obtain ⟨hle, -⟩ := magDigits_asNear m one_pos hfits
  rw [f32Mag_pack_roundMag s one_pos hlt]
  omega

theorem f32Mag_lt_middle {x : F32} (h : f32Finite x) : f32Mag x < (2 ^ 25 - 1) * 2 ^ 252 := by
  have hlt := f32Mag_lt (f32IsNan_of_finite h) (by simp [f32IsInf_of_finite h])
  rcases f32Mag_dvd_or_lt x 253 with hdvd | hlow <;> omega

/-- The whole number that `floor` makes of a magnitude: rounded up below zero. -/
def floorWhole (x : F32) : Nat :=
  if f32Sign x ∧ f32Mag x % f32One ≠ 0 then f32Mag x / f32One + 1 else f32Mag x / f32One

theorem f32Floor_of_finite {x : F32} (h : f32Finite x) :
    f32Floor x = f32Pack (f32Sign x) (roundMag (floorWhole x * f32One) 1) := by
  simp only [f32Floor, f32IsNan_of_finite h, f32IsInf_of_finite h, Bool.false_eq_true, if_false, floorWhole]

/-- The floor of a magnitude fits in a value: it is the magnitude itself, or at most 2^23. -/
theorem floorWhole_mul_cases (x : F32) : floorWhole x * f32One = f32Mag x ∨ floorWhole x ≤ 2 ^ 23 := by
  have hone : f32One = 2 ^ 149 := rfl
  unfold floorWhole
  rcases f32Mag_dvd_or_lt x 149 with hdvd | hlt
  · rw [hone]
    split <;> omega
  · rw [hone]
    split <;> omega

theorem floorWhole_fits (x : F32) (k : Nat) : 2 ^ k ∣ floorWhole x * f32One ∨ floorWhole x * f32One < 2 ^ 23 * 2 ^ k := by
  rcases floorWhole_mul_cases x with heq | hle
  · rw [heq]
    exact f32Mag_dvd_or_lt x k
  · rcases Nat.lt_or_ge 149 k with hk | hk
    · refine .inr (lt_of_le_of_lt (Nat.mul_le_mul_right _ hle) (Nat.mul_lt_mul_of_pos_left ?_ (by decide)))
      exact Nat.pow_lt_pow_right (by decide) hk
    · exact .inl (Dvd.dvd.mul_left (pow_dvd_pow 2 hk) _)

theorem floorWhole_lt_middle {x : F32} (h : f32Finite x) : floorWhole x * f32One < (2 ^ 25 - 1) * 2 ^ 252 := by
  rcases floorWhole_mul_cases x with heq | hle
  · rw [heq]
    exact f32Mag_lt_middle h
  · exact lt_of_le_of_lt (Nat.mul_le_mul_right _ hle) (by decide)

/-- `floor` is the greatest integer not above a finite value, and exact. -/
theorem f32Floor_spec {x : F32} (h : f32Finite x) :
    ∃ n : Int, f32Finite (f32Floor x) ∧ f32Units (f32Floor x) = n * 2 ^ 149
      ∧ n * 2 ^ 149 ≤ f32Units x ∧ f32Units x < (n + 1) * 2 ^ 149 := by
  have hmid := floorWhole_lt_middle h
  obtain ⟨-, hlt⟩ := roundMag_of_finite (num := floorWhole x * f32One) one_pos (by omega)
  have hone : f32One = 2 ^ 149 := rfl
  rw [f32Floor_of_finite h, f32Units_pack _ (by omega), f32Mag_pack_roundMag_exact _ (floorWhole_fits x) hmid, f32Units]
  refine ⟨if f32Sign x then -(floorWhole x : Int) else floorWhole x, f32Finite_pack _ hlt, ?_⟩
  unfold floorWhole
  rw [hone]
  generalize f32Mag x = m
  cases f32Sign x
  · simp only [Bool.false_eq_true, false_and, if_false]
    omega
  · simp only [true_and, if_true]
    split <;> omega

theorem dmToDeg_eq (v : F32) :
    dmToDeg v = f32Add (f32Floor (f32Div v 0x42C80000#32))
      (f32Div (f32Sub v (f32Mul 0x42C80000#32 (f32Floor (f32Div v 0x42C80000#32)))) 0x42700000#32) := rfl

/-- Settles O34: `dec` rounds the number of its digits once, `decint` reads its digits, `floor` is exact. -/
theorem prsNumbers : Obligations.PrsNumbers := by
  unfold Obligations.PrsNumbers
  refine ⟨fun sign whole frac rest point h => ?_, fun ds rest hds hlen hrest => decInt_append hds hlen hrest, fun v =>
    ⟨_, dmToDeg_eq v, f32Floor_spec⟩⟩
  have ⟨_, hdigits, _⟩ := h
  obtain ⟨s, hx, hpos, hempty, hneg⟩ := decSigned_eq_pack (neg := decide (sign = [0x2D#8])) (decDigits_of_decimalText h) hdigits
  rw [dec_of_decimalText h, hx]
  rw [decide_eq_false_iff_not] at hpos
  have hden : 0 < 10 ^ frac.length := Nat.pow_pos (by decide)
  have hnone : whole ++ frac = [] → numberOf (whole ++ frac) = 0 := fun he => by rw [he]; rfl
  have hsign := f32Sign_pack s (lt_of_le_of_lt (roundMag_le_inf (numberOf (whole ++ frac) * f32One) (10 ^ frac.length)) (by decide))
  generalize numberOf (whole ++ frac) = n at *
  have hzero : n = 0 → roundMag (n * f32One) (10 ^ frac.length) = 0 := fun hn => by rw [hn, Nat.zero_mul, roundMag_zero_left]
  refine ⟨fun he => ?_, fun hn => ?_, fun _ => ⟨fun hp => hsign.trans (hpos hp), fun hm hmag => ?_, fun hlt => ⟨?_, fun y _ => ?_⟩,
    fun hge => ?_⟩⟩
  · rw [hzero (hnone he), hempty he]
    rfl
  · rw [hzero hn]
    exact ⟨f32Units_eq_zero.mpr (f32Mag_pack_zero s), fun hp => by rw [hpos hp]; rfl⟩
  · have hp : roundMag (n * f32One) (10 ^ frac.length) ≠ 0 := fun h0 => hmag (by rw [h0]; exact f32Mag_pack_zero s)
    rw [hsign, hneg hp, decide_eq_true hm]
  · obtain ⟨-, hp⟩ := roundMag_of_finite hden hlt
    exact f32Finite_pack s hp
  · have hnear := f32Mag_pack_roundMag_asNear s hden hlt y
    simpa only [AsNear, f32One, Nat.cast_mul, Nat.cast_pow, Nat.cast_ofNat, ne_eq, Nat.cast_inj] using hnear
  · have hp : roundMag (n * f32One) (10 ^ frac.length) = 0x7F800000 := roundMag_of_overflow hden hge
    rw [hp] at hneg ⊢
    rw [hneg (by decide)]
    by_cases hm : sign = [0x2D#8]
    · rw [if_pos hm, decide_eq_true hm]
      rfl
    · rw [if_neg hm, decide_eq_false hm]
      rfl

end Sys2Proof.Machine
end

section
/-!
SUPPORT. The heading sensor driver: beginning a reading, one bus event, the poll (`43_heading.md` rules R185 to R200).
-/

namespace Sys2Proof.Machine

/-! ## Operations with conditions -/

theorem perform_eq_next {p : Prog α} {s : State} {r : α × Block} (h : p.attempt s.blk = .ok r) :
    perform p s = .next { s with blk := r.2 } := by
  rw [perform, h]

theorem perform_eq_refused {p : Prog α} {s : State} {r : Refusal} (h : p.attempt s.blk = .error (.refusal r)) :
    perform p s = .refused r := by
  rw [perform, h]
  rfl

/-! ## HDG.BEGIN -/

theorem exec_hdgBegin (s : State) : exec .hdgBegin s = perform hdgBeginProg s := rfl

theorem beginContract_of_idle {b : Block} (hs : b.hdg.state = .idle) (hb : b.hdg.busy = false) : beginContract b = none :=
  if_pos ⟨hs, hb⟩

theorem beginContract_of_violated {b : Block} (h : b.hdg.state ≠ .idle ∨ b.hdg.busy = true) :
    beginContract b = some (.refusal .headingContract) :=
  if_neg fun ⟨hs, hb⟩ => h.elim (· hs) fun hbusy => Bool.false_ne_true (hb.symm.trans hbusy)

theorem attempt_hdgBeginProg_of_idle {b : Block} (hs : b.hdg.state = .idle) (hb : b.hdg.busy = false) :
    hdgBeginProg.attempt b = .ok ((), issueTw .start (setBusy true b)) :=
  Prog.attempt_need_none _ (beginContract_of_idle hs hb)

theorem attempt_hdgBeginProg_of_violated {b : Block} (h : b.hdg.state ≠ .idle ∨ b.hdg.busy = true) :
    hdgBeginProg.attempt b = .error (.refusal .headingContract) :=
  Prog.attempt_need_some _ (beginContract_of_violated h)

/-- Settles O35: the contract decides whether the two writes are made. -/
theorem hdgBeginContract : Obligations.HdgBeginContract := by
  unfold Obligations.HdgBeginContract
  intro s
  rw [exec_hdgBegin]
  exact ⟨fun hs hb => perform_eq_next (attempt_hdgBeginProg_of_idle hs hb),
    fun h => perform_eq_refused (attempt_hdgBeginProg_of_violated h)⟩

/-! ## HDG.EVT -/

/-- One bus operation issued and the driver as it is then: the shape of every row of R187, the abort included. -/
def hdgMove (op : TwOp) (h : Heading) (b : Block) : Block := issueTw op { b with hdg := h }

theorem hdgGo_eq_hdgMove (op : TwOp) (st : HState) (b : Block) : hdgGo op st b = hdgMove op { b.hdg with state := st } b := rfl

section
variable {b : Block} (data : Byte)

theorem hdgEvent_start_of_idle (hs : b.hdg.state = .idle) (hb : b.hdg.busy = true) :
    hdgEvent .start data b = hdgMove (.send (b.cfg.headingAddr <<< 1)) { b.hdg with state := .addressedForWrite } b := by
  rw [hdgEvent, hdgOnStart, if_pos ⟨hs, hb⟩, addressByte, BitVec.or_zero, hdgGo_eq_hdgMove]

theorem hdgEvent_slawAck_of_addressedForWrite (hs : b.hdg.state = .addressedForWrite) :
    hdgEvent .slawAck data b = hdgMove (.send b.cfg.headingReg) { b.hdg with state := .registerSent } b := if_pos hs

theorem hdgEvent_txdataAck_of_registerSent (hs : b.hdg.state = .registerSent) :
    hdgEvent .txdataAck data b = hdgMove .start { b.hdg with state := .repeatStart } b := if_pos hs

theorem hdgEvent_repStart_of_repeatStart (hs : b.hdg.state = .repeatStart) :
    hdgEvent .repStart data b =
      hdgMove (.send (b.cfg.headingAddr <<< 1 ||| 1#8)) { b.hdg with state := .addressedForRead } b := if_pos hs

theorem hdgEvent_slarAck_of_addressedForRead (hs : b.hdg.state = .addressedForRead) :
    hdgEvent .slarAck data b = hdgMove .recvAck b.hdg b := by
  rw [hdgEvent, hdgOnSlarAck, if_pos hs, hdgGo_eq_hdgMove, ← hs]

theorem hdgEvent_rxdataAck_of_addressedForRead (hs : b.hdg.state = .addressedForRead) :
    hdgEvent .rxdataAck data b = hdgMove .recvNack { b.hdg with hi := data, state := .highByteReceived } b := if_pos hs

theorem hdgEvent_rxdataNack_of_highByteReceived (hs : b.hdg.state = .highByteReceived) :
    hdgEvent .rxdataNack data b =
      hdgMove .stop { b.hdg with lo := data, value := b.hdg.hi ++ data, state := .done } b := if_pos hs

/-- R196: an event that the driver's state does not expect aborts the transfer. -/
theorem hdgEvent_of_not_expected {k : TwClass} (h : hdgExpects b.hdg k = false) :
    hdgEvent k data b = hdgMove .stop { b.hdg with value := b.cfg.headingErr, state := .error } b := by
  cases k with
  | start =>
    refine if_neg fun ⟨hs, hb⟩ => ?_
    simp [hdgExpects, hs, hb] at h
  | repStart => exact if_neg (beq_eq_false_iff_ne.mp h)
  | slawAck => exact if_neg (beq_eq_false_iff_ne.mp h)
  | txdataAck => exact if_neg (beq_eq_false_iff_ne.mp h)
  | slarAck => exact if_neg (beq_eq_false_iff_ne.mp h)
  | rxdataAck => exact if_neg (beq_eq_false_iff_ne.mp h)
  | rxdataNack => exact if_neg (beq_eq_false_iff_ne.mp h)
  | other => rfl

end

theorem exec_hdgEvt (st data : Byte) (s : State) :
    exec (.hdgEvt st data) s =
      done (fun b => hdgEvent (twClass b.cfg.twCodes st) data (consumeEvent (.tw st data) b)) s := rfl

/-- R189: the arm of a class does what `HDG.EVT` does on a status of that class. -/
theorem exec_twInstr (k : TwClass) (st data : Byte) (s : State) :
    exec (twInstr k st data) s = done (fun b => hdgEvent k data (consumeEvent (.tw st data) b)) s := by
  cases k <;> rfl

/-- What the table makes of the block once the event is consumed is what the class's arm does, and `HDG.EVT` on that class. -/
theorem exec_event_of_hdgMove {s : State} {st data : Byte} {k : TwClass} {op : TwOp} {h : Heading}
    (hev : hdgEvent k data (consumeEvent (.tw st data) s.blk) = hdgMove op h (consumeEvent (.tw st data) s.blk)) (i : Instr)
    (hi : i = twInstr k st data ∨ (i = .hdgEvt st data ∧ twClass s.blk.cfg.twCodes st = k)) :
    exec i s = .next (s.mapBlk fun b => hdgMove op h (consumeEvent (.tw st data) b)) := by
  obtain rfl | ⟨rfl, hk⟩ := hi
  · rw [exec_twInstr]
    exact done_eq_next hev
  · rw [exec_hdgEvt]
    exact done_eq_next (hk.symm ▸ hev)

/-- Settles O36: row by row, and the abort where no row applies. -/
theorem hdgEvtFollowsTable : Obligations.HdgEvtFollowsTable := by
  unfold Obligations.HdgEvtFollowsTable
  refine ⟨fun s st data => ⟨fun hs hb => ?start, fun hs => ?slawAck, fun hs => ?txdataAck, fun hs => ?repStart,
    fun hs => ⟨?slarAck, ?rxdataAck⟩, fun hs => ?rxdataNack⟩, fun s st data k hk => ?abort⟩
  case start => exact exec_event_of_hdgMove (hdgEvent_start_of_idle data hs hb)
  case slawAck => exact exec_event_of_hdgMove (hdgEvent_slawAck_of_addressedForWrite data hs)
  case txdataAck => exact exec_event_of_hdgMove (hdgEvent_txdataAck_of_registerSent data hs)
  case repStart => exact exec_event_of_hdgMove (hdgEvent_repStart_of_repeatStart data hs)
  case slarAck => exact exec_event_of_hdgMove (hdgEvent_slarAck_of_addressedForRead data hs)
  case rxdataAck => exact exec_event_of_hdgMove (hdgEvent_rxdataAck_of_addressedForRead data hs)
  case rxdataNack => exact exec_event_of_hdgMove (hdgEvent_rxdataNack_of_highByteReceived data hs)
  case abort => exact exec_event_of_hdgMove (hdgEvent_of_not_expected (b := consumeEvent (.tw st data) s.blk) data hk)

/-! ## HDG.POLL -/

theorem exec_hdgPoll (s : State) : exec .hdgPoll s = perform (hdgPollProg s.blk.cfg) s := rfl

/-- The arm of R198 that a state of the driver selects. -/
def pollArm (c : Config) : HState → Prog Unit
  | .done => pollDone
  | .error => pollError c
  | .idle => pollIdle
  | _ => returns (.poll .pending)

/-- `h_state` read selects its own arm. -/
theorem attempt_hdgPollProg (c : Config) (b : Block) :
    (hdgPollProg c).attempt b = ((pollArm c b.hdg.state).andThen (endPhase 3#4)).attempt b := by
  rw [hdgPollProg, Prog.attempt_bind, Prog.attempt_ask]
  cases b.hdg.state <;> rfl

theorem exec_hdgPoll_of_arm {s : State} {st : HState} {b : Block} (hs : s.blk.hdg.state = st)
    (h : (pollArm s.blk.cfg st).attempt s.blk = .ok ((), b)) : exec .hdgPoll s = .next { s with blk := setPhase 3#4 b } := by
  rw [exec_hdgPoll]
  refine perform_eq_next (r := ((), _)) ?_
  rw [attempt_hdgPollProg, hs, Prog.attempt_andThen, h]
  rfl

/-- The driver idle again with the next reading begun (R199), and the value returned. -/
theorem attempt_rearm_returns (r : Result) (b : Block) :
    (rearm.andThen (returns r)).attempt b =
      .ok ((), setRet r (issueTw .start { b with hdg := { b.hdg with state := .idle, busy := true } })) := rfl

theorem attempt_pollDone (b : Block) :
    pollDone.attempt b = .ok ((), setRet (.poll (.ready b.hdg.value)) (issueTw .start
      { b with record := { b.record with hdgRaw := b.hdg.value, hdgDeg := headingDeg b.hdg.value
                                         hdgRad := f32Mul (headingDeg b.hdg.value) radPerDeg }
               hdg := { b.hdg with state := .idle, busy := true } })) := by
  simp only [pollDone, Prog.attempt_bind, Prog.attempt_andThen (writeReg _ _), (total_readReg _).attempt, (total_writeReg _ _).attempt,
    run_readReg, run_write_hdgRawReg, run_write_hdgDegReg, run_write_hdgRadReg, hValueReg_get, hdgDegReg_get, Except.bind,
    attempt_rearm_returns]

theorem attempt_pollError (c : Config) (b : Block) :
    (pollError c).attempt b = .ok ((), setRet (.poll .error) (issueTw .start
      { b with record := { b.record with hdgRaw := c.headingErr, status := b.record.status ||| statusBit stHdgerr }
               hdg := { b.hdg with state := .idle, busy := true } })) := by
  rw [pollError, Prog.attempt_andThen, (total_writeReg _ _).attempt, run_write_hdgRawReg, Except.bind, Prog.attempt_andThen,
    (total_orStatusProg _).attempt, run_orStatusProg, Except.bind, attempt_rearm_returns, orStatus]

theorem attempt_pollIdle_of_idle {b : Block} (hs : b.hdg.state = .idle) (hb : b.hdg.busy = false) :
    pollIdle.attempt b = .ok ((), setRet (.poll .pending) (issueTw .start (setBusy true b))) := by
  rw [pollIdle, Prog.attempt_bind, Prog.attempt_ask, hb, Except.bind, if_pos Bool.toNat_false, Prog.attempt_andThen,
    attempt_hdgBeginProg_of_idle hs hb]
  rfl

theorem attempt_pollIdle_of_busy {b : Block} (hb : b.hdg.busy = true) :
    pollIdle.attempt b = .ok ((), setRet (.poll .pending) b) := by
  rw [pollIdle, Prog.attempt_bind, Prog.attempt_ask, hb]
  rfl

/-- While a reading is in flight the poll only returns `Pending`. -/
theorem attempt_pollArm_of_pending (c : Config) {b : Block} (hdone : b.hdg.state ≠ .done) (herror : b.hdg.state ≠ .error)
    (hbusy : b.hdg.state ≠ .idle ∨ b.hdg.busy = true) :
    (pollArm c b.hdg.state).attempt b = .ok ((), setRet (.poll .pending) b) := by
  cases hs : b.hdg.state with
  | done => exact absurd hs hdone
  | error => exact absurd hs herror
  | idle => exact attempt_pollIdle_of_busy (hbusy.resolve_left (· hs))
  | addressedForWrite | registerSent | repeatStart | addressedForRead | highByteReceived => rfl

/-- Settles O37: the four arms of R198, the idle one split by `h_busy`. -/
theorem hdgPollConsumesReading : Obligations.HdgPollConsumesReading := by
  unfold Obligations.HdgPollConsumesReading
  intro s
  exact ⟨fun hs => exec_hdgPoll_of_arm hs (attempt_pollDone _), fun hs => exec_hdgPoll_of_arm hs (attempt_pollError _ _),
    fun hs hb => exec_hdgPoll_of_arm hs (attempt_pollIdle_of_idle hs hb),
    fun hdone herror hbusy => exec_hdgPoll_of_arm rfl (attempt_pollArm_of_pending _ hdone herror hbusy)⟩

end Sys2Proof.Machine
end

section
/-!
SUPPORT. The encoder (`44_encoder.md`): what an edge makes of the active cell, what a drain delivers, and why no tick is lost
between them.
-/

namespace Sys2Proof.Machine

/-! ## The cells -/

@[simp] theorem getCell_setCell_of_other (i : Fin 2) (x : EncCell) (e : Encoder) :
    getCell i (setCell (otherCell i) x e) = getCell i e := by
  simpa using getCell_setCell_other (otherCell i) x e

/-- The active index and the sample are no part of a cell. -/
@[simp] theorem getCell_mk (i j : Fin 2) (q : BitVec 2) (e : Encoder) : getCell i ⟨e.cell0, e.cell1, j, q⟩ = getCell i e := rfl

@[simp] theorem setCell_setCell (i : Fin 2) (x y : EncCell) (e : Encoder) : setCell i y (setCell i x e) = setCell i y e := by
  unfold setCell; split <;> rfl

@[simp] theorem cellIndex_val (i : Fin 2) : cellIndex i.val = i := by fin_cases i <;> rfl

/-! ## ENC.EDGE -/

/-- The count moves by what the sequence 00 10 11 01 says (R207). -/
theorem edgeDelta_eq (c : Config) (qOld qNew : BitVec 2) :
    edgeDelta c qOld qNew =
      if (qOld, qNew) ∈ [(0b00#2, 0b10#2), (0b10#2, 0b11#2), (0b11#2, 0b01#2), (0b01#2, 0b00#2)] then
        (if c.encDirALeadsB then 1#16 else -1#16)
      else if (qOld, qNew) ∈ [(0b00#2, 0b01#2), (0b01#2, 0b11#2), (0b11#2, 0b10#2), (0b10#2, 0b00#2)] then
        (if c.encDirALeadsB then -1#16 else 1#16)
      else 0#16 := by
  unfold edgeDelta dirA dirB tickOf
  generalize c.encDirALeadsB = lead
  revert lead qOld qNew
  decide

/-- The four transition codes (R101). -/
theorem transitionCode_cases : ∀ code : BitVec 2, code = 0b00#2 ∨ code = 0b01#2 ∨ code = 0b10#2 ∨ code = 0b11#2 := by decide

/-- A legal transition moves the active cell's count and an illegal one sets its error; the sample is kept either way. -/
theorem edgeDecode_eq (q : BitVec 2) (b : Block) :
    edgeDecode q b =
      { b with enc := { setCell b.enc.active
          { error := (getCell b.enc.active b.enc).error || decide (q ^^^ b.enc.qPrev = 0b00#2 ∨ q ^^^ b.enc.qPrev = 0b11#2)
            count := (getCell b.enc.active b.enc).count + edgeDelta b.cfg b.enc.qPrev q } b.enc with qPrev := q } } := by
  unfold edgeDecode edgeDelta
  rcases transitionCode_cases (q ^^^ b.enc.qPrev) with h | h | h | h <;> simp [h, edgeCount, edgeError]

/-- The arm of a transition code does what `ENC.EDGE` does on the sample the code leads to (R208 to R211). -/
theorem exec_encArm (code : BitVec 2) (s : State) :
    exec (encArm code) s = done (fun b => edgeDecode (b.enc.qPrev ^^^ code) (consumeEvent .qe b)) s := by
  rcases transitionCode_cases code with rfl | rfl | rfl | rfl <;> exact done_eq_next (by simp [edgeDecode])

theorem exec_encArm_of_sample (ab : BitVec 2) (s : State) :
    exec (encArm (ab ^^^ s.blk.enc.qPrev)) s = done (fun b => edgeDecode ab (consumeEvent .qe b)) s := by
  rw [exec_encArm]
  refine done_eq_next ?_
  simp only [BitVec.xor_comm s.blk.enc.qPrev, BitVec.xor_assoc, BitVec.xor_self, BitVec.xor_zero]

/-- Settles O38: both forms decode the sample, and the decode is one change of the active cell. -/
theorem encEdgeDecodes : Obligations.EncEdgeDecodes := by
  unfold Obligations.EncEdgeDecodes
  intro s ab i hi
  have hrun : exec i s = done (fun b => edgeDecode ab (consumeEvent .qe b)) s := by
    obtain rfl | rfl : i = .encEdge ab ∨ i = encArm (ab ^^^ s.blk.enc.qPrev) := by simpa using hi
    · rfl
    · exact exec_encArm_of_sample ab s
  rw [hrun]
  refine done_eq_next ?_
  rw [edgeDecode_eq, edgeDelta_eq]
  rfl

/-! ## ENC.DRAIN -/

/-- The end of a drain, once the count is delivered: the cell's error bit reported, and the phase (R212). -/
def drainReport (k : Fin 2) : Prog Unit :=
  (Prog.ask (errorBit k)).bind fun e =>
  (writeReg encValidReg (if e = 0 then 1#8 else 0#8)).andThen <|
  (Prog.ask (errorBit k)).bind fun e =>
  (if e = 1 then orStatusProg stEncerr else .ret ()).andThen <|
  endPhase 4#4

theorem drainCells_eq (j k : Fin 2) :
    drainCells j k =
      ((writeReg (cellCountReg j) 0#16).andThen <| (Prog.act (clearError j)).andThen <| (Prog.act (setActive j)).andThen <|
        (copyReg (cellCountReg k) encTicksReg).andThen (drainReport k)) := rfl

theorem run_drainReport (k : Fin 2) (b : Block) :
    ((drainReport k).run b).2 =
      { b with
        record := { b.record with
          encValid := if (getCell k b.enc).error then 0#8 else 1#8
          status := if (getCell k b.enc).error then b.record.status ||| 0x80#32 else b.record.status }
        phase := 4#4 } := by
  cases he : (getCell k b.enc).error <;> simp [drainReport, errorBit, he, orStatus, setPhase, statusBit, stEncerr]

/-- The inactive cell cleared and made active. -/
theorem run_clearAndSwap (b : Block) :
    setActive (otherCell b.enc.active) (clearError (otherCell b.enc.active)
        ((writeReg (cellCountReg (otherCell b.enc.active)) 0#16).run b).2) =
      { b with enc := { setCell (otherCell b.enc.active) ⟨false, 0#16⟩ b.enc with active := otherCell b.enc.active } } := by
  simp [setActive, clearError]

theorem run_encDrainProg (b : Block) :
    (encDrainProg.run b).2 =
      { b with
        enc := { setCell (otherCell b.enc.active) ⟨false, 0#16⟩ b.enc with active := otherCell b.enc.active }
        record := { b.record with
          encTicks := (getCell b.enc.active b.enc).count
          encValid := if (getCell b.enc.active b.enc).error then 0#8 else 1#8
          status := if (getCell b.enc.active b.enc).error then b.record.status ||| 0x80#32 else b.record.status }
        phase := 4#4 } := by
  rw [encDrainProg, Prog.run_bind, Prog.run_ask, cellIndex_val, drainCells_eq]
  simp only [Prog.run_andThen, Prog.run_act, run_clearAndSwap, copyReg, Prog.run_bind, run_readReg, run_write_encTicksReg,
    run_drainReport, cellCountReg_get, getCell_mk, getCell_setCell_of_other]

/-- Settles O39: the whole drain with no edge in between, part by part. -/
theorem encDrainDelivers : Obligations.EncDrainDelivers := by
  unfold Obligations.EncDrainDelivers
  exact fun s => done_eq_next (run_encDrainProg s.blk)

/-! ## Words of two bytes -/

/-- A word is known by its bytes. -/
theorem eq_of_byteOf_eq {u v : BitVec w} (h : ∀ k < byteCount w, byteOf u k = byteOf v k) : u = v := by
  have hbytes : lowBytes u (byteCount w) = lowBytes v (byteCount w) :=
    List.map_congr_left fun k hk => by rw [h k (List.mem_range.mp hk)]
  rw [← ofNat_ofDigits_lowBytes u, hbytes, ofNat_ofDigits_lowBytes]

/-- The upper byte written over a word that has the lower one already makes the whole word. -/
theorem mergeByte_one_eq {old v : U16} (h : byteOf old 0 = byteOf v 0) : mergeByte 1 v old = v := by
  refine eq_of_byteOf_eq fun k hk => ?_
  obtain rfl | rfl : k = 0 ∨ k = 1 := by simp only [byteCount] at hk; omega
  · rw [byteOf_mergeByte_ne (by decide), h]
  · exact byteOf_mergeByte_same 1 v old

/-- Both bytes read make the whole word, in the form in which a read ends. -/
theorem ofNat_twoBytes (v : U16) : BitVec.ofNat 16 ((byteOf v 0).toNat + 256 * ((byteOf v 1).toNat + 256 * 0)) = v :=
  ofNat_ofDigits_lowBytes v

/-! ## The balance -/

/-- The count of the active cell. -/
def EncoderRun.live (r : EncoderRun) : U16 := (getCell r.blk.enc.active r.blk.enc).count

/-- The count of the other cell. -/
def EncoderRun.idle (r : EncoderRun) : U16 := (getCell (otherCell r.blk.enc.active) r.blk.enc).count

/-- The balance before the swap: the inactive cell holds no tick, and its bytes are being cleared. -/
structure EncoderRun.BeforeSwap (r : EncoderRun) : Prop where
  sum : r.drained + r.live = r.edges
  cell : ∀ a, r.path[0]? = some a → cellIndex a = r.blk.enc.active
  low : 2 ≤ r.path.length → byteOf r.idle 0 = 0#8
  clear : 3 ≤ r.path.length → r.idle = 0#16

/-- The balance after the swap: the inactive cell holds the ticks that the drain reads and delivers. -/
structure EncoderRun.AfterSwap (r : EncoderRun) : Prop where
  sum : r.drained + r.live + r.idle = r.edges
  cell : ∀ a, r.path[0]? = some a → cellIndex a = otherCell r.blk.enc.active
  readLow : ∀ v, r.path[5]? = some v → v = (byteOf r.idle 0).toNat
  readHigh : ∀ v, r.path[6]? = some v → v = (byteOf r.idle 1).toNat
  wroteLow : 8 ≤ r.path.length → byteOf r.blk.record.encTicks 0 = byteOf r.idle 0
  wrote : 9 ≤ r.path.length → r.blk.record.encTicks = r.idle

theorem EncoderRun.beforeSwap_iff (r : EncoderRun) :
    r.BeforeSwap ↔ r.drained + r.live = r.edges ∧ (∀ a, r.path[0]? = some a → cellIndex a = r.blk.enc.active)
      ∧ (2 ≤ r.path.length → byteOf r.idle 0 = 0#8) ∧ (3 ≤ r.path.length → r.idle = 0#16) :=
  ⟨fun ⟨hsum, hcell, hlow, hclear⟩ => ⟨hsum, hcell, hlow, hclear⟩,
    fun ⟨hsum, hcell, hlow, hclear⟩ => ⟨hsum, hcell, hlow, hclear⟩⟩

theorem EncoderRun.afterSwap_iff (r : EncoderRun) :
    r.AfterSwap ↔ r.drained + r.live + r.idle = r.edges
      ∧ (∀ a, r.path[0]? = some a → cellIndex a = otherCell r.blk.enc.active)
      ∧ (∀ v, r.path[5]? = some v → v = (byteOf r.idle 0).toNat)
      ∧ (∀ v, r.path[6]? = some v → v = (byteOf r.idle 1).toNat)
      ∧ (8 ≤ r.path.length → byteOf r.blk.record.encTicks 0 = byteOf r.idle 0)
      ∧ (9 ≤ r.path.length → r.blk.record.encTicks = r.idle) :=
  ⟨fun ⟨hsum, hcell, hreadLow, hreadHigh, hwroteLow, hwrote⟩ =>
      ⟨hsum, hcell, hreadLow, hreadHigh, hwroteLow, hwrote⟩,
    fun ⟨hsum, hcell, hreadLow, hreadHigh, hwroteLow, hwrote⟩ =>
      ⟨hsum, hcell, hreadLow, hreadHigh, hwroteLow, hwrote⟩⟩

/-- The balance of the statement is these two, told apart by the place of the swap. -/
theorem EncoderRun.balanced_iff (r : EncoderRun) :
    r.balanced ↔ (r.path.length < 5 → r.BeforeSwap) ∧ (5 ≤ r.path.length → r.AfterSwap) := by
  rw [r.beforeSwap_iff, r.afterSwap_iff]
  rfl

theorem EncoderRun.BeforeSwap.balanced {r : EncoderRun} (h : r.BeforeSwap) (hlen : r.path.length < 5) : r.balanced :=
  r.balanced_iff.mpr ⟨fun _ => h, fun h5 => absurd hlen (Nat.not_lt.mpr h5)⟩

theorem EncoderRun.AfterSwap.balanced {r : EncoderRun} (h : r.AfterSwap) (hlen : 5 ≤ r.path.length) : r.balanced :=
  r.balanced_iff.mpr ⟨fun h5 => absurd hlen (Nat.not_le.mpr h5), fun _ => h⟩

theorem EncoderRun.balanced.beforeSwap {r : EncoderRun} (h : r.balanced) (hlen : r.path.length < 5) : r.BeforeSwap :=
  (r.balanced_iff.mp h).1 hlen

theorem EncoderRun.balanced.afterSwap {r : EncoderRun} (h : r.balanced) (hlen : 5 ≤ r.path.length) : r.AfterSwap :=
  (r.balanced_iff.mp h).2 hlen

/-! ## An edge keeps the balance -/

section
variable (r : EncoderRun) (q : BitVec 2)

theorem live_move_edge : (r.move (some q)).live = r.live + edgeDelta r.blk.cfg r.blk.enc.qPrev q := by
  simp [EncoderRun.move, EncoderRun.live, edgeDecode_eq]

theorem idle_move_edge : (r.move (some q)).idle = r.idle := by
  simp [EncoderRun.move, EncoderRun.idle, edgeDecode_eq]

theorem active_move_edge : (r.move (some q)).blk.enc.active = r.blk.enc.active := by
  simp [EncoderRun.move, edgeDecode_eq]

theorem record_move_edge : (r.move (some q)).blk.record = r.blk.record := by
  simp [EncoderRun.move, edgeDecode_eq]

end

/-- A legal edge adds its tick to the active cell and to the edges alike, at any place of a drain. -/
theorem balanced_move_edge {r : EncoderRun} (h : r.balanced) (q : BitVec 2) : (r.move (some q)).balanced := by
  have hedges : (r.move (some q)).edges = r.edges + edgeDelta r.blk.cfg r.blk.enc.qPrev q := rfl
  rw [EncoderRun.balanced_iff]
  refine ⟨fun hlen => ?_, fun hlen => ?_⟩
  · have hb := h.beforeSwap hlen
    refine ⟨?_, ?_, ?_, ?_⟩
    · rw [live_move_edge, hedges, ← hb.sum, BitVec.add_assoc]; rfl
    · rw [active_move_edge]; exact hb.cell
    · rw [idle_move_edge]; exact hb.low
    · rw [idle_move_edge]; exact hb.clear
  · have ha := h.afterSwap hlen
    refine ⟨?_, ?_, ?_, ?_, ?_, ?_⟩
    · rw [live_move_edge, idle_move_edge, hedges, ← ha.sum, ← BitVec.add_assoc]; exact add_right_comm _ _ _
    · rw [active_move_edge]; exact ha.cell
    · rw [idle_move_edge]; exact ha.readLow
    · rw [idle_move_edge]; exact ha.readHigh
    · rw [idle_move_edge, record_move_edge]; exact ha.wroteLow
    · rw [idle_move_edge, record_move_edge]; exact ha.wrote

/-! ## A micro-step of a drain keeps the balance -/

section
variable {b : Block} {a x y z w n lo hi : Nat} {d e : U16}

/-- Whatever is written to the inactive cell, the active one keeps its ticks. -/
theorem beforeSwap_of_idle_written (c : EncCell) {path path' : List Nat} (h : EncoderRun.BeforeSwap ⟨b, path, d, e⟩)
    (hhead : path'[0]? = path[0]?) (hlow : byteOf c.count 0 = 0#8) (hclear : 3 ≤ path'.length → c.count = 0#16) :
    EncoderRun.BeforeSwap ⟨{ b with enc := setCell (otherCell b.enc.active) c b.enc }, path', d, e⟩ where
  sum := by simpa [EncoderRun.live] using h.sum
  cell := by simpa [hhead] using h.cell
  low _ := by simpa [EncoderRun.idle] using hlow
  clear hlen := by simpa [EncoderRun.idle] using hclear hlen

theorem balanced_readActive (h : EncoderRun.BeforeSwap ⟨b, [], d, e⟩) : (EncoderRun.move none ⟨b, [], d, e⟩).balanced :=
  EncoderRun.BeforeSwap.balanced (r := ⟨b, [b.enc.active.val], d, e⟩) ⟨h.sum, by simp, by simp, by simp⟩ (by simp)

theorem balanced_clearLow (h : EncoderRun.BeforeSwap ⟨b, [a], d, e⟩) : (EncoderRun.move none ⟨b, [a], d, e⟩).balanced := by
  have hcell := h.cell a rfl
  have hmove : EncoderRun.move none ⟨b, [a], d, e⟩ =
      ⟨(cellCountReg (otherCell (cellIndex a))).set
        (mergeByte 0 0#16 ((cellCountReg (otherCell (cellIndex a))).get b)) b, [a, 0], d, e⟩ := rfl
  rw [hmove, hcell]
  refine EncoderRun.BeforeSwap.balanced (beforeSwap_of_idle_written _ h rfl ?_ ?_) (by simp)
  · exact byteOf_mergeByte_same 0 0#16 _
  · simp

theorem balanced_clearHigh (h : EncoderRun.BeforeSwap ⟨b, [a, x], d, e⟩) :
    (EncoderRun.move none ⟨b, [a, x], d, e⟩).balanced := by
  have hcell := h.cell a rfl
  have hmove : EncoderRun.move none ⟨b, [a, x], d, e⟩ =
      ⟨(cellCountReg (otherCell (cellIndex a))).set
        (mergeByte 1 0#16 ((cellCountReg (otherCell (cellIndex a))).get b)) b, [a, x, 0], d, e⟩ := rfl
  have hzero : mergeByte 1 0#16 ((cellCountReg (otherCell b.enc.active)).get b) = 0#16 := mergeByte_one_eq (h.low (by simp))
  rw [hmove, hcell, hzero]
  exact EncoderRun.BeforeSwap.balanced (beforeSwap_of_idle_written _ h rfl rfl fun _ => rfl) (by simp)

theorem balanced_clearError (h : EncoderRun.BeforeSwap ⟨b, [a, x, y], d, e⟩) :
    (EncoderRun.move none ⟨b, [a, x, y], d, e⟩).balanced := by
  have hcell := h.cell a rfl
  have hmove : EncoderRun.move none ⟨b, [a, x, y], d, e⟩ =
      ⟨clearError (otherCell (cellIndex a)) b, [a, x, y, 0], d, e⟩ := rfl
  rw [hmove, hcell]
  exact EncoderRun.BeforeSwap.balanced
    (beforeSwap_of_idle_written _ h rfl (h.low (by simp)) fun _ => h.clear (by simp)) (by simp)

/-- The swap makes the empty cell the active one, and the active cell's ticks those to be delivered. -/
theorem balanced_swap (h : EncoderRun.BeforeSwap ⟨b, [a, x, y, z], d, e⟩) :
    (EncoderRun.move none ⟨b, [a, x, y, z], d, e⟩).balanced := by
  have hcell := h.cell a rfl
  have hmove : EncoderRun.move none ⟨b, [a, x, y, z], d, e⟩ =
      ⟨setActive (otherCell (cellIndex a)) b, [a, x, y, z, 0], d, e⟩ := rfl
  have hclear : (getCell (otherCell b.enc.active) b.enc).count = 0#16 := h.clear (by simp)
  have hsum : d + (getCell b.enc.active b.enc).count = e := h.sum
  rw [hmove, hcell]
  refine EncoderRun.AfterSwap.balanced ⟨?_, ?_, ?_, ?_, ?_, ?_⟩ (by simp)
  · simp [EncoderRun.live, EncoderRun.idle, hclear, hsum]
  · simpa using hcell
  · simp
  · simp
  · simp
  · simp

theorem balanced_readLow (h : EncoderRun.AfterSwap ⟨b, [a, x, y, z, w], d, e⟩) :
    (EncoderRun.move none ⟨b, [a, x, y, z, w], d, e⟩).balanced := by
  have hcell := h.cell a rfl
  have hmove : EncoderRun.move none ⟨b, [a, x, y, z, w], d, e⟩ =
    ⟨b, [a, x, y, z, w, (byteOf ((cellCountReg (cellIndex a)).get b) 0).toNat], d, e⟩ := rfl
  rw [hmove, hcell]
  refine EncoderRun.AfterSwap.balanced ⟨h.sum, h.cell, ?_, ?_, ?_, ?_⟩ (by simp)
  · exact fun v hv => (Option.some.inj hv).symm
  · simp
  · simp
  · simp

theorem balanced_readHigh (h : EncoderRun.AfterSwap ⟨b, [a, x, y, z, w, lo], d, e⟩) :
    (EncoderRun.move none ⟨b, [a, x, y, z, w, lo], d, e⟩).balanced := by
  have hcell := h.cell a rfl
  have hmove : EncoderRun.move none ⟨b, [a, x, y, z, w, lo], d, e⟩ =
    ⟨b, [a, x, y, z, w, lo, (byteOf ((cellCountReg (cellIndex a)).get b) 1).toNat], d, e⟩ := rfl
  rw [hmove, hcell]
  refine EncoderRun.AfterSwap.balanced ⟨h.sum, h.cell, h.readLow, ?_, ?_, ?_⟩ (by simp)
  · exact fun v hv => (Option.some.inj hv).symm
  · simp
  · simp

/-- The number that the bytes read make is the count to be delivered. -/
theorem ofNat_read_eq_idle {rest : List Nat} (h : EncoderRun.AfterSwap ⟨b, a :: x :: y :: z :: w :: lo :: hi :: rest, d, e⟩) :
    BitVec.ofNat 16 (lo + 256 * (hi + 256 * 0)) = (getCell (otherCell b.enc.active) b.enc).count := by
  rw [h.readLow lo rfl, h.readHigh hi rfl]
  exact ofNat_twoBytes _

theorem balanced_writeLow (h : EncoderRun.AfterSwap ⟨b, [a, x, y, z, w, lo, hi], d, e⟩) :
    (EncoderRun.move none ⟨b, [a, x, y, z, w, lo, hi], d, e⟩).balanced := by
  have hmove : EncoderRun.move none ⟨b, [a, x, y, z, w, lo, hi], d, e⟩ =
    ⟨encTicksReg.set (mergeByte 0 (BitVec.ofNat 16 (lo + 256 * (hi + 256 * 0))) (encTicksReg.get b)) b,
      [a, x, y, z, w, lo, hi, 0], d, e⟩ := rfl
  rw [hmove, ofNat_read_eq_idle h]
  refine EncoderRun.AfterSwap.balanced ⟨h.sum, h.cell, h.readLow, h.readHigh, ?_, ?_⟩ (by simp)
  · exact fun _ => byteOf_mergeByte_same 0 _ _
  · simp

theorem balanced_writeHigh (h : EncoderRun.AfterSwap ⟨b, [a, x, y, z, w, lo, hi, n], d, e⟩) :
    (EncoderRun.move none ⟨b, [a, x, y, z, w, lo, hi, n], d, e⟩).balanced := by
  have hmove : EncoderRun.move none ⟨b, [a, x, y, z, w, lo, hi, n], d, e⟩ =
    ⟨encTicksReg.set (mergeByte 1 (BitVec.ofNat 16 (lo + 256 * (hi + 256 * 0))) (encTicksReg.get b)) b,
      [a, x, y, z, w, lo, hi, n, 0], d, e⟩ := rfl
  have hticks : mergeByte 1 (getCell (otherCell b.enc.active) b.enc).count (encTicksReg.get b) =
      (getCell (otherCell b.enc.active) b.enc).count := mergeByte_one_eq (h.wroteLow (by simp))
  rw [hmove, ofNat_read_eq_idle h, hticks]
  exact EncoderRun.AfterSwap.balanced ⟨h.sum, h.cell, h.readLow, h.readHigh, fun _ => rfl, fun _ => rfl⟩ (by simp)

end

/-- The block has the encoder `enc` and the delivered count `ticks`. -/
def Delivered (enc : Encoder) (ticks : U16) (b : Block) : Prop := b.enc = enc ∧ b.record.encTicks = ticks

theorem keeps_drainReport (k : Fin 2) (enc : Encoder) (ticks : U16) : (drainReport k).Keeps (Delivered enc ticks) := by
  refine (Prog.Keeps.ask _).bind fun _ => (keeps_writeReg (fun _ _ h => h) _).andThen <| (Prog.Keeps.ask _).bind fun e =>
    Prog.Keeps.andThen ?_ (Prog.Keeps.act fun _ h => h)
  split
  · exact keeps_modifyReg fun _ _ h => h
  · exact Prog.Keeps.ret _

/-- A block with the same encoder and delivered count is as good, at any later place. -/
theorem EncoderRun.AfterSwap.reported {r : EncoderRun} {b : Block} (h : r.AfterSwap) (hlen : 9 ≤ r.path.length)
    (hsame : Delivered r.blk.enc r.blk.record.encTicks b) (n : Nat) :
    EncoderRun.AfterSwap { r with blk := b, path := r.path ++ [n] } := by
  obtain ⟨henc, hticks⟩ := hsame
  have hpath : ∀ i < 9, (r.path ++ [n])[i]? = r.path[i]? := fun i hi => List.getElem?_append_left (by omega)
  have hlive : EncoderRun.live { r with blk := b, path := r.path ++ [n] } = r.live := by simp only [EncoderRun.live, henc]
  have hidle : EncoderRun.idle { r with blk := b, path := r.path ++ [n] } = r.idle := by simp only [EncoderRun.idle, henc]
  refine ⟨?_, ?_, ?_, ?_, fun _ => ?_, fun _ => ?_⟩
  · rw [hlive, hidle]; exact h.sum
  · rw [hpath 0 (by decide), henc]; exact h.cell
  · rw [hidle, hpath 5 (by decide)]; exact h.readLow
  · rw [hidle, hpath 6 (by decide)]; exact h.readHigh
  · rw [hidle, hticks]; exact h.wroteLow (by omega)
  · rw [hidle, hticks]; exact h.wrote hlen

/-- At the end of a drain its delivered count goes over to the sum. -/
theorem EncoderRun.AfterSwap.drain_ended {r : EncoderRun} {b : Block} (h : r.AfterSwap) (hlen : 9 ≤ r.path.length)
    (hsame : Delivered r.blk.enc r.blk.record.encTicks b) :
    EncoderRun.BeforeSwap { r with blk := b, path := [], drained := r.drained + b.record.encTicks } where
  sum := by
    obtain ⟨henc, hticks⟩ := hsame
    have hlive : EncoderRun.live { r with blk := b, path := [], drained := r.drained + b.record.encTicks } = r.live := by
      simp only [EncoderRun.live, henc]
    rw [hlive, hticks, h.wrote hlen, ← h.sum]
    exact add_right_comm _ _ _
  cell := by simp
  low := by simp
  clear := by simp

/-- The report of the error bit leaves the cells and the delivered count alone, and its end adds the count to the sum. -/
theorem balanced_report {r : EncoderRun} {k : Fin 2} {rest : List Nat} (hlen : 9 ≤ r.path.length)
    (hreport : encDrainProg.follow r.path = (drainReport k).follow rest) (h : r.AfterSwap) : (r.move none).balanced := by
  rw [EncoderRun.move, hreport]
  cases hfirst : ((drainReport k).follow rest).first r.blk with
  | none => exact h.balanced (by omega)
  | some p =>
    have hsame := ((keeps_drainReport k r.blk.enc r.blk.record.encTicks).follow rest).first ⟨rfl, rfl⟩ hfirst
    dsimp only
    split
    · exact (h.drain_ended hlen hsame).balanced (by simp)
    · exact (h.reported hlen hsame p.2).balanced (by simp only [List.length_append]; omega)

/-- Every micro-step of a drain keeps the balance, from any place of the drain. -/
theorem balanced_move_none {r : EncoderRun} (h : r.balanced) : (r.move none).balanced := by
  obtain ⟨b, path, d, e⟩ := r
  match path with
  | [] => exact balanced_readActive (h.beforeSwap (by simp))
  | [_] => exact balanced_clearLow (h.beforeSwap (by simp))
  | [_, _] => exact balanced_clearHigh (h.beforeSwap (by simp))
  | [_, _, _] => exact balanced_clearError (h.beforeSwap (by simp))
  | [_, _, _, _] => exact balanced_swap (h.beforeSwap (by simp))
  | [_, _, _, _, _] => exact balanced_readLow (h.afterSwap (by simp))
  | [_, _, _, _, _, _] => exact balanced_readHigh (h.afterSwap (by simp))
  | [_, _, _, _, _, _, _] => exact balanced_writeLow (h.afterSwap (by simp))
  | [_, _, _, _, _, _, _, _] => exact balanced_writeHigh (h.afterSwap (by simp))
  | a :: _ :: _ :: _ :: _ :: _ :: _ :: _ :: _ :: rest =>
    exact balanced_report (k := cellIndex a) (rest := rest) (by simp) rfl (h.afterSwap (by simp))

/-! ## Runs from reset -/

theorem balanced_move {r : EncoderRun} (h : r.balanced) (m : Option (BitVec 2)) : (r.move m).balanced := by
  cases m with
  | none => exact balanced_move_none h
  | some q => exact balanced_move_edge h q

theorem balanced_run {r : EncoderRun} (h : r.balanced) (moves : List (Option (BitVec 2))) : (EncoderRun.run moves r).balanced := by
  induction moves generalizing r with
  | nil => exact h
  | cons m moves ih => exact ih (balanced_move h m)

theorem balanced_reset (c : Config) (env : Environment) :
    EncoderRun.balanced ⟨Block.reset c env 0, [], 0#16, 0#16⟩ :=
  EncoderRun.BeforeSwap.balanced ⟨rfl, by simp, by simp, by simp⟩ (by simp)

/-- Settles O40: the step lemma, and its consequence with no drain in progress. -/
theorem encNoTickLost : Obligations.EncNoTickLost := by
  unfold Obligations.EncNoTickLost
  refine ⟨fun r m h => balanced_move h m, fun c env moves hpath => ?_⟩
  exact ((balanced_run (balanced_reset c env) moves).beforeSwap (by simp [hpath])).sum

end Sys2Proof.Machine
end

section
/-!
SUPPORT. The estimator (`45_estimator.md`): where each of the three sources puts the position.
-/

namespace Sys2Proof.Machine

/-! ## EST.UPDATE -/

theorem exec_estUpdate (s : State) : exec .estUpdate s = done (fun b => ((estUpdateProg s.blk.cfg).run b).2) s := rfl

/-- The position's part of `EST.UPDATE`, with the status word read (R221). -/
def positionArm (c : Config) (st : U32) : Prog Unit :=
  if st.getLsbD 0 then (copyReg gpsXReg estXReg).andThen (copyReg gpsYReg estYReg)
  else (readReg encValidReg).bind fun v => if v = 1#8 then deadReckon c else .ret ()

theorem estUpdateProg_eq (c : Config) :
    estUpdateProg c = ((copyReg hdgRadReg estHeadingReg).andThen <| (readReg statusReg).bind fun st =>
      (positionArm c st).andThen (endPhase 5#4)) := rfl

/-- The block with the sensor's heading as the estimated one (R221, the first line). -/
def headed (b : Block) : Block := { b with record := { b.record with estHeading := b.record.hdgRad } }

/-- The heading comes first, the position is found in the block that holds it, and the phase ends the operation. -/
theorem run_estUpdateProg (c : Config) (b : Block) :
    ((estUpdateProg c).run b).2 = setPhase 5#4 ((positionArm c b.record.status).run (headed b)).2 := by
  simp only [headed, estUpdateProg_eq, copyReg, Prog.run_andThen, Prog.run_bind, run_readReg, run_write_estHeadingReg, run_endPhase,
    hdgRadReg_get, statusReg_get]

/-- A coordinate moves along the estimated heading. -/
theorem run_integrate (along : F32 → F32) {coord : Reg 32} (hc : coord.Lawful) (d : F32) (b : Block) :
    (integrate along coord d).run b =
      ((), coord.set (f32Add (coord.get b) (f32Mul (along b.record.estHeading) d)) b) := by
  simp only [integrate, Prog.run_bind, run_readReg, estHeadingReg_get, run_writeReg hc (by omega : 0 < 32)]

/-- Both coordinates move by the same distance, each along its own component of the heading. -/
theorem run_deadReckon (c : Config) (b : Block) :
    ((deadReckon c).run b).2 =
      { b with record := { b.record with
          estX := f32Add b.record.estX (f32Mul (f32Cos b.record.estHeading) (tickDistance c b.record.encTicks))
          estY := f32Add b.record.estY (f32Mul (f32Sin b.record.estHeading) (tickDistance c b.record.encTicks)) } } := by
  rw [deadReckon, Prog.run_bind, run_readReg, Prog.run_andThen, run_integrate _ ⟨fun _ _ => rfl, fun _ _ _ => rfl⟩,
    run_integrate _ ⟨fun _ _ => rfl, fun _ _ _ => rfl⟩]
  rfl

theorem run_positionArm_of_fix (c : Config) {st : U32} (hfix : st.getLsbD 0 = true) (b : Block) :
    ((positionArm c st).run b).2 = { b with record := { b.record with estX := b.record.gpsX, estY := b.record.gpsY } } := by
  rw [positionArm, if_pos hfix]
  simp only [copyReg, Prog.run_andThen, Prog.run_bind, run_readReg, run_write_estXReg, run_write_estYReg, gpsXReg_get, gpsYReg_get]

theorem run_positionArm_of_ticks (c : Config) {st : U32} (hfix : st.getLsbD 0 = false) {b : Block} (hv : b.record.encValid = 1#8) :
    (positionArm c st).run b = (deadReckon c).run b := by
  rw [positionArm, if_neg (Bool.eq_false_iff.mp hfix), Prog.run_bind, run_readReg, encValidReg_get, if_pos hv]

theorem run_positionArm_of_neither (c : Config) {st : U32} (hfix : st.getLsbD 0 = false) {b : Block} (hv : b.record.encValid ≠ 1#8) :
    ((positionArm c st).run b).2 = b := by
  rw [positionArm, if_neg (Bool.eq_false_iff.mp hfix), Prog.run_bind, run_readReg, encValidReg_get, if_neg hv, Prog.run_ret]

/-- Settles O41: the three arms of the position, each in the block that has its heading. -/
theorem estUpdatePose : Obligations.EstUpdatePose := by
  unfold Obligations.EstUpdatePose
  intro s
  rw [exec_estUpdate]
  refine ⟨fun hfix => done_eq_next ?fix, fun hfix hv => done_eq_next ?ticks, fun hfix hv => done_eq_next ?held⟩ <;>
    rw [run_estUpdateProg]
  case fix => rw [run_positionArm_of_fix _ hfix]; rfl
  case ticks => rw [run_positionArm_of_ticks _ hfix (b := headed s.blk) hv, run_deadReckon]; rfl
  case held => rw [run_positionArm_of_neither _ hfix (b := headed s.blk) hv]; rfl

end Sys2Proof.Machine
end

section
/-!
SUPPORT. The signs of binary32 values (`00_scope.md` rule R12): which results are positive, which are negative, and which are neither
because an operand is a zero or not a number.
-/

namespace Sys2Proof.Machine

/-! ## Positive and negative values -/

/-- A number other than zero with the sign bit `s`: positive for `false`, negative for `true`. -/
structure HasSign (s : Bool) (x : F32) : Prop where
  number : f32IsNan x = false
  sign : f32Sign x = s
  nonzero : f32Mag x ≠ 0

theorem f32Lt_iff {a b : F32} :
    f32Lt a b = true ↔ f32IsNan a = false ∧ f32IsNan b = false ∧ f32Units a < f32Units b := by
  simp only [f32Lt, Bool.and_eq_true, Bool.not_eq_true', decide_eq_true_eq, and_assoc]

theorem f32Lt_trans {a b c : F32} (hab : f32Lt a b = true) (hbc : f32Lt b c = true) : f32Lt a c = true := by
  rw [f32Lt_iff] at *
  obtain ⟨ha, -, hltab⟩ := hab
  obtain ⟨-, hc, hltbc⟩ := hbc
  exact ⟨ha, hc, hltab.trans hltbc⟩

theorem f32Units_pos_iff {x : F32} : 0 < f32Units x ↔ f32Sign x = false ∧ f32Mag x ≠ 0 := by
  unfold f32Units
  cases f32Sign x <;> simp [Nat.pos_iff_ne_zero]

theorem f32Units_neg_iff {x : F32} : f32Units x < 0 ↔ f32Sign x = true ∧ f32Mag x ≠ 0 := by
  unfold f32Units
  cases f32Sign x <;> simp [Nat.pos_iff_ne_zero]

theorem f32Lt_zero_left_iff {x : F32} : f32Lt 0#32 x = true ↔ HasSign false x := by
  rw [f32Lt_iff, show f32Units 0#32 = 0 by decide, f32Units_pos_iff]
  exact ⟨fun ⟨_, hx, hs, h0⟩ => ⟨hx, hs, h0⟩, fun ⟨hx, hs, h0⟩ => ⟨by decide, hx, hs, h0⟩⟩

theorem f32Lt_zero_right_iff {x : F32} : f32Lt x 0#32 = true ↔ HasSign true x := by
  rw [f32Lt_iff, show f32Units 0#32 = 0 by decide, f32Units_neg_iff]
  exact ⟨fun ⟨hx, _, hs, h0⟩ => ⟨hx, hs, h0⟩, fun ⟨hx, hs, h0⟩ => ⟨hx, by decide, hs, h0⟩⟩

/-- A value equal to zero is a zero of either sign. -/
theorem f32Eq_zero_iff {x : F32} : f32Eq x 0#32 = true ↔ f32IsNan x = false ∧ f32Mag x = 0 := by
  have hnan : f32IsNan 0#32 = false := by decide
  have hunits : f32Units 0#32 = 0 := by decide
  simp only [f32Eq, hnan, hunits, Bool.not_false, Bool.and_true, Bool.and_eq_true, Bool.not_eq_true', decide_eq_true_eq,
    f32Units_eq_zero]

theorem f32Mag_pack_eq_zero {s : Bool} {p : Nat} (hp : p < 2 ^ 31) : f32Mag (f32Pack s p) = 0 ↔ p = 0 := by
  refine ⟨fun h => ?_, fun h => h ▸ f32Mag_pack_zero s⟩
  by_contra h0
  exact (f32Mag_pack_pos s (Nat.pos_of_ne_zero h0) hp).ne' h

/-- The sign of a pattern is the sign it is packed with. -/
theorem hasSign_pack_iff {s t : Bool} {p : Nat} (hp : p ≤ 0x7F800000) : HasSign s (f32Pack t p) ↔ t = s ∧ p ≠ 0 := by
  have hp31 : p < 2 ^ 31 := by omega
  refine ⟨fun ⟨_, hs, h0⟩ => ⟨by rwa [f32Sign_pack t hp31] at hs, mt (f32Mag_pack_eq_zero hp31).mpr h0⟩, fun ⟨hts, h0⟩ => ?_⟩
  exact ⟨f32IsNan_pack t hp, by rw [f32Sign_pack t hp31, hts], mt (f32Mag_pack_eq_zero hp31).mp h0⟩

theorem not_number_nan (op : Nat) (a b : F32) : f32IsNan (f32Nan op a b) ≠ false := ne_of_eq_of_ne (f32IsNan_nan op a b) (by decide)

theorem not_hasSign_nan {s : Bool} (op : Nat) (a b : F32) : ¬ HasSign s (f32Nan op a b) :=
  fun h => not_number_nan op a b h.number

/-- A zero has the exponent field of a small value. -/
theorem f32Finite_of_mag_eq_zero {x : F32} (h : f32Mag x = 0) : f32Finite x := by
  intro he
  have hpos := Nat.mul_pos (show 0 < 2 ^ 23 + f32Frac x by omega) (Nat.two_pow_pos (f32Exp x - 1))
  rw [f32Mag, if_neg (by omega)] at h
  omega

theorem f32Mag_ne_zero_of_isInf {x : F32} (h : f32IsInf x = true) : f32Mag x ≠ 0 := fun h0 =>
  Bool.false_ne_true ((f32IsInf_of_finite (f32Finite_of_mag_eq_zero h0)).symm.trans h)

/-! ## Values of no sign -/

/-- A not-a-number or a zero: what the gate test makes of the terminal waypoint (R232). -/
def NanOrZero (x : F32) : Prop := f32IsNan x = true ∨ f32Mag x = 0

theorem NanOrZero.not_hasSign {s : Bool} {x : F32} (h : NanOrZero x) : ¬ HasSign s x := fun hx =>
  h.elim (fun hnan => Bool.false_ne_true (hx.number.symm.trans hnan)) hx.nonzero

theorem nanOrZero_nan (op : Nat) (a b : F32) : NanOrZero (f32Nan op a b) := .inl (f32IsNan_nan op a b)

/-- Zero times anything: an infinity makes it a NaN. -/
theorem nanOrZero_zero_mul (x : F32) : NanOrZero (f32Mul 0#32 x) := by
  have hmag : f32Mag 0#32 = 0 := by decide
  unfold f32Mul
  split
  · exact nanOrZero_nan _ _ _
  · split
    · rw [if_pos (.inl hmag)]
      exact nanOrZero_nan _ _ _
    · rw [hmag, Nat.zero_mul, roundMag_zero_left]
      exact .inr (f32Mag_pack_zero _)

theorem nanOrZero_addNum {a b : F32} (op : Nat) (ha : f32Mag a = 0) (hb : f32Mag b = 0) : NanOrZero (f32AddNum op a b) := by
  simp only [f32AddNum, f32IsInf_of_finite (f32Finite_of_mag_eq_zero ha), f32IsInf_of_finite (f32Finite_of_mag_eq_zero hb),
    f32Units_eq_zero.mpr ha, f32Units_eq_zero.mpr hb, Bool.false_eq_true, if_false, add_zero, if_true]
  exact .inr (f32Mag_pack_zero _)

theorem f32Mag_neg (x : F32) : f32Mag (f32Neg x) = f32Mag x := by
  simp only [f32Mag, f32Exp_neg, f32Frac_neg]

theorem NanOrZero.add {a b : F32} (ha : NanOrZero a) (hb : NanOrZero b) : NanOrZero (f32Add a b) := by
  unfold f32Add
  split
  · exact nanOrZero_nan _ _ _
  · next h =>
    obtain ⟨hna, hnb⟩ := not_or.mp (mt Bool.or_eq_true_iff.mpr h)
    exact nanOrZero_addNum 0 (ha.resolve_left hna) (hb.resolve_left hnb)

theorem NanOrZero.sub {a b : F32} (ha : NanOrZero a) (hb : NanOrZero b) : NanOrZero (f32Sub a b) := by
  unfold f32Sub
  split
  · exact nanOrZero_nan _ _ _
  · next h =>
    obtain ⟨hna, hnb⟩ := not_or.mp (mt Bool.or_eq_true_iff.mpr h)
    exact nanOrZero_addNum 1 (ha.resolve_left hna) ((f32Mag_neg b).trans (hb.resolve_left hnb))

/-! ## Sums, products and quotients -/

/-- An operation that answers a NaN on a NaN answers a number only on numbers. -/
theorem numbers_of_guarded {a b r : F32} (op : Nat)
    (h : f32IsNan (if f32IsNan a || f32IsNan b then f32Nan op a b else r) = false) : f32IsNan a = false ∧ f32IsNan b = false := by
  rw [← Bool.or_eq_false_iff]
  by_contra hnan
  rw [if_pos (Bool.eq_true_of_not_eq_false hnan)] at h
  exact not_number_nan _ _ _ h

theorem numbers_of_sub {a b : F32} (h : f32IsNan (f32Sub a b) = false) : f32IsNan a = false ∧ f32IsNan b = false :=
  numbers_of_guarded 1 h

theorem numbers_of_mul {a b : F32} (h : f32IsNan (f32Mul a b) = false) : f32IsNan a = false ∧ f32IsNan b = false :=
  numbers_of_guarded 2 h

theorem numbers_of_div {a b : F32} (h : f32IsNan (f32Div a b) = false) : f32IsNan a = false ∧ f32IsNan b = false :=
  numbers_of_guarded 3 h

/-- The square of a number is not below +0.0, and is +0.0 for a zero. -/
theorem f32Mul_self_eq {x : F32} (h : f32IsNan x = false) :
    ∃ p, p ≤ 0x7F800000 ∧ f32Mul x x = f32Pack false p ∧ (f32Mag x = 0 → p = 0) := by
  simp only [f32Mul, h, Bool.or_self, Bool.false_eq_true, if_false, bne_self_eq_false]
  cases hi : f32IsInf x with
  | true =>
    have hmag := f32Mag_ne_zero_of_isInf hi
    exact ⟨0x7F800000, le_rfl, by rw [if_pos rfl, if_neg (not_or_intro hmag hmag), f32Inf], fun h0 => absurd h0 hmag⟩
  | false =>
    exact ⟨_, roundMag_le_inf _ _, if_neg Bool.false_ne_true, fun h0 => by rw [h0, Nat.zero_mul, roundMag_zero_left]⟩

/-- The sum of two values not below +0.0 is not below it either, and is +0.0 for two zeros. -/
theorem f32Add_pack_false {p q : Nat} (hp : p ≤ 0x7F800000) (hq : q ≤ 0x7F800000) :
    ∃ r, r ≤ 0x7F800000 ∧ f32Add (f32Pack false p) (f32Pack false q) = f32Pack false r ∧ (p = 0 → q = 0 → r = 0) := by
  have hsp := f32Sign_pack false (show p < 2 ^ 31 by omega)
  have hsq := f32Sign_pack false (show q < 2 ^ 31 by omega)
  simp only [f32Add, f32IsNan_pack false hp, f32IsNan_pack false hq, Bool.or_self, Bool.false_eq_true, if_false, f32AddNum, hsp, hsq,
    bne_self_eq_false, Bool.and_false]
  split
  · exact ⟨p, hp, rfl, fun h _ => h⟩
  · split
    · exact ⟨q, hq, rfl, fun _ h => h⟩
    · simp only [f32Units, hsp, hsq, Bool.false_eq_true, if_false]
      split
      · exact ⟨0, Nat.zero_le _, rfl, fun _ _ => rfl⟩
      · next hne =>
        refine ⟨_, roundMag_le_inf _ _, by rw [decide_eq_false (by omega)], fun h0 h1 => absurd ?_ hne⟩
        rw [h0, h1, f32Mag_pack_zero]
        rfl

/-- A quotient by a positive number has a sign only from its dividend. -/
theorem hasSign_of_div {s : Bool} {z len : F32} (hlen : HasSign false len) (h : HasSign s (f32Div z len)) : HasSign s z := by
  obtain ⟨hz, -⟩ := numbers_of_div h.number
  simp only [f32Div, hz, hlen.number, hlen.sign, hlen.nonzero, Bool.or_self, Bool.false_eq_true, if_false, Bool.bne_false] at h
  split at h
  · next hinf =>
    split at h
    · exact absurd h (not_hasSign_nan _ _ _)
    · obtain ⟨hs, -⟩ := (hasSign_pack_iff le_rfl).mp h
      exact ⟨hz, hs, f32Mag_ne_zero_of_isInf hinf⟩
  · split at h
    · obtain ⟨-, h0⟩ := (hasSign_pack_iff (Nat.zero_le _)).mp h
      exact absurd rfl h0
    · obtain ⟨hs, hp⟩ := (hasSign_pack_iff (roundMag_le_inf _ _)).mp h
      exact ⟨hz, hs, fun h0 => hp (by rw [h0, Nat.zero_mul, roundMag_zero_left])⟩

/-! ## The arcsine -/

theorem f32Asin_number_le {r : F32} (h : f32IsNan r = false) :
    f32IsNan (f32Asin r) = false ∧ f32Mag (f32Asin r) ≤ f32Mag 0x3FC90FDB#32 := by
  have hbound : ∀ s p, p ≤ f32HalfPi →
      f32IsNan (f32Pack s p) = false ∧ f32Mag (f32Pack s p) ≤ f32Mag 0x3FC90FDB#32 := fun s p hp => by
    have hlt : f32HalfPi < 2 ^ 31 := by decide
    refine ⟨f32IsNan_pack s (hp.trans (by decide)), ?_⟩
    rw [f32Mag_pack s (hp.trans_lt hlt)]
    exact f32Mag_pack_mono false hp hlt
  obtain ⟨-, s, -, he⟩ | ⟨-, p, -, hp, he, -⟩ := f32Asin_eq h <;> rw [he]
  · exact hbound s 0 (Nat.zero_le _)
  · exact hbound _ p hp

/-- The arcsine of a number has the number's sign. -/
theorem hasSign_asin_iff {s : Bool} {r : F32} (h : f32IsNan r = false) : HasSign s (f32Asin r) ↔ HasSign s r := by
  obtain ⟨h0, t, -, he⟩ | ⟨h0, p, hp1, hp, he, -⟩ := f32Asin_eq h <;> rw [he]
  · rw [hasSign_pack_iff (Nat.zero_le _)]
    exact ⟨fun ⟨_, hne⟩ => absurd rfl hne, fun hr => absurd h0 hr.nonzero⟩
  · rw [hasSign_pack_iff (hp.trans (by decide))]
    exact ⟨fun ⟨hs, _⟩ => ⟨h, hs, h0⟩, fun hr => ⟨hr.sign, by omega⟩⟩

/-- From 1 on the arcsine is one of the two neighbours of pi/2. -/
theorem f32Asin_of_one_le {r : F32} (h : f32IsNan r = false) (h1 : f32One ≤ f32Mag r) :
    f32Asin r = f32Pack (f32Sign r) f32HalfPiBelow ∨ f32Asin r = f32Pack (f32Sign r) f32HalfPi := by
  obtain ⟨h0, -⟩ | ⟨-, p, -, -, he, hpi⟩ := f32Asin_eq h
  · exact absurd h1 (by rw [h0]; decide)
  · rw [he]
    exact (hpi h1).imp (congrArg _) (congrArg _)

end Sys2Proof.Machine
end

section
/-!
SUPPORT. The waypoint guidance engine (`46_guidance.md` rules R230 to R234): which waypoint an index selects, which are crossed,
and where the advance stops.
-/

namespace Sys2Proof.Machine

/-! ## Waypoints -/

theorem waypointAt_of_entry {c : Config} {i : Nat} {w : Waypoint} (h : c.waypoints[i]? = some w) : waypointAt c i = some w := by
  have hi : i < c.tableLen := by
    obtain ⟨hlt, -⟩ := List.getElem?_eq_some_iff.mp h
    exact hlt
  rw [waypointAt, if_pos hi, h]

theorem waypointAt_tableLen (c : Config) : waypointAt c c.tableLen = some (terminalWaypoint c) := by
  rw [waypointAt, if_neg (Nat.lt_irrefl _), if_pos rfl]

theorem waypointAt_eq_none {c : Config} {i : Nat} (h : c.tableLen < i) : waypointAt c i = none := by
  rw [waypointAt, if_neg (Nat.lt_asymm h), if_neg (Nat.ne_of_gt h)]

/-- The terminal waypoint is crossed from no position, infinities and NaNs included: its normal is zero (R232). -/
theorem crossed_terminalWaypoint (c : Config) (px py : F32) : crossed c (terminalWaypoint c) px py = false := by
  have hvoid : NanOrZero (gateValue c (terminalWaypoint c) px py) := by
    unfold gateValue
    split
    · exact (nanOrZero_zero_mul _).sub (nanOrZero_zero_mul _)
    · exact (nanOrZero_zero_mul _).add (nanOrZero_zero_mul _)
  exact Bool.eq_false_iff.mpr fun h => hvoid.not_hasSign (f32Lt_zero_right_iff.mp h)

/-! ## GDE.CROSSED -/

theorem exec_gdeCrossed_of_waypoint {s : State} {wp : Byte} {w : Waypoint} (h : waypointAt s.blk.cfg wp.toNat = some w) (px py : F32) :
    exec (.gdeCrossed wp px py) s = done (setRet (.flag (crossed s.blk.cfg w px py))) s := by
  change execGdeCrossed wp px py s = _
  rw [execGdeCrossed, h]

theorem exec_gdeCrossed_of_none {s : State} {wp : Byte} (h : waypointAt s.blk.cfg wp.toNat = none) (px py : F32) :
    exec (.gdeCrossed wp px py) s = .refused .waypointOperand := by
  change execGdeCrossed wp px py s = _
  rw [execGdeCrossed, h]

/-- Settles O42: the operand selects an entry, the terminal waypoint or nothing. -/
theorem gdeWaypointsAndCrossing : Obligations.GdeWaypointsAndCrossing := by
  unfold Obligations.GdeWaypointsAndCrossing
  intro s wp px py
  refine ⟨fun w hw => exec_gdeCrossed_of_waypoint (waypointAt_of_entry hw) px py, fun hlast => ?_,
    fun habove => exec_gdeCrossed_of_none (waypointAt_eq_none habove) px py, fun i w => waypointAt_of_entry, fun last hlast => ?_⟩
  · rw [exec_gdeCrossed_of_waypoint (hlast ▸ waypointAt_tableLen _), crossed_terminalWaypoint]
    rfl
  · change waypointAt s.blk.cfg s.blk.cfg.tableLen = _
    rw [waypointAt_tableLen, terminalWaypoint, lastPosition, hlast]

/-! ## GDE.ADVANCE -/

theorem exec_gdeAdvance (s : State) : exec .gdeAdvance s = perform (gdeAdvanceProg s.blk.cfg) s := rfl

/-- The block with `wp_index` at `n`. -/
def atWaypoint (n : Nat) (b : Block) : Block := { b with record := { b.record with wpIndex := BitVec.ofNat 8 n } }

theorem atWaypoint_wpIndex (b : Block) : atWaypoint b.record.wpIndex.toNat b = b := by
  rw [atWaypoint, BitVec.ofNat_toNat, BitVec.setWidth_eq]

theorem atWaypoint_atWaypoint (m n : Nat) (b : Block) : atWaypoint n (atWaypoint m b) = atWaypoint n b := rfl

/-- From index `i` on, `n` is the first waypoint that is not crossed at a position, and the table has it (R234). -/
structure FirstAhead (c : Config) (px py : F32) (i n : Nat) : Prop where
  le : i ≤ n
  inTable : n ≤ c.tableLen
  passed : ∀ j, i ≤ j → j < n → ∃ w, waypointAt c j = some w ∧ crossed c w px py = true
  ahead : ∃ w, waypointAt c n = some w ∧ crossed c w px py = false

section
variable {c : Config} {px py : F32} {i n : Nat} {w : Waypoint}

theorem firstAhead_self (hw : waypointAt c i = some w) (hc : crossed c w px py = false) : FirstAhead c px py i i where
  le := Nat.le_refl i
  inTable := waypointAt_isSome.mp (by rw [hw]; rfl)
  passed _ hi hlt := absurd hlt (Nat.not_lt.mpr hi)
  ahead := ⟨w, hw, hc⟩

/-- A crossed waypoint is passed. -/
theorem FirstAhead.of_succ (h : FirstAhead c px py (i + 1) n) (hw : waypointAt c i = some w) (hc : crossed c w px py = true) :
    FirstAhead c px py i n where
  le := Nat.le_of_succ_le h.le
  inTable := h.inTable
  passed j hij hjn := by
    rcases Nat.eq_or_lt_of_le hij with rfl | hlt
    · exact ⟨w, hw, hc⟩
    · exact h.passed j hlt hjn
  ahead := h.ahead

/-- What is crossed stands in the table before its end. -/
theorem lt_tableLen_of_crossed (hw : waypointAt c i = some w) (hc : crossed c w px py = true) : i < c.tableLen := by
  refine Nat.lt_of_le_of_ne (waypointAt_isSome.mp (by rw [hw]; rfl)) fun hi => ?_
  subst hi
  rw [waypointAt_tableLen, Option.some.injEq] at hw
  subst hw
  exact Bool.false_ne_true ((crossed_terminalWaypoint c px py).symm.trans hc)

end

section
variable {c : Config} {b : Block} {w : Waypoint}

theorem attempt_nextWaypoint (h : b.record.wpIndex.toNat < c.tableLen) :
    (nextWaypoint c).attempt b = .ok ((), atWaypoint (b.record.wpIndex.toNat + 1) b) := by
  rw [nextWaypoint, (total_modifyReg _ _).attempt, run_modifyReg ⟨fun _ _ => rfl, fun _ _ _ => rfl⟩ (by decide), wpIndexReg_get,
    min_eq_left h]
  rfl

/-- One turn of the loop: the index stays at a waypoint that is not crossed. -/
theorem attempt_advanceProg_of_ahead (fuel : Nat) (hw : waypointAt c b.record.wpIndex.toNat = some w)
    (hc : crossed c w b.record.estX b.record.estY = false) : (advanceProg c (fuel + 1)).attempt b = .ok ((), b) := by
  simp only [advanceProg, attempt_withWaypoint _ hw, Prog.attempt_bind, (total_readReg _).attempt, run_readReg, Except.bind,
    estXReg_get, estYReg_get, hc, Bool.false_eq_true, if_false, Prog.attempt_ret]

/-- One turn of the loop: past a waypoint that is crossed. -/
theorem attempt_advanceProg_of_crossed (fuel : Nat) (hw : waypointAt c b.record.wpIndex.toNat = some w)
    (hc : crossed c w b.record.estX b.record.estY = true) :
    (advanceProg c (fuel + 1)).attempt b = (advanceProg c fuel).attempt (atWaypoint (b.record.wpIndex.toNat + 1) b) := by
  simp only [advanceProg, attempt_withWaypoint _ hw, Prog.attempt_bind, (total_readReg _).attempt, run_readReg, Except.bind,
    estXReg_get, estYReg_get, hc, if_true, Prog.attempt_andThen, attempt_nextWaypoint (lt_tableLen_of_crossed hw hc)]

end

/-- With more turns than there are waypoints left, the loop ends at the first waypoint ahead. -/
theorem attempt_advanceProg {c : Config} (hT : c.tableLen ≤ 254) (fuel : Nat) {b : Block} (hi : b.record.wpIndex.toNat ≤ c.tableLen)
    (hfuel : c.tableLen < b.record.wpIndex.toNat + fuel) :
    ∃ n, FirstAhead c b.record.estX b.record.estY b.record.wpIndex.toNat n
      ∧ (advanceProg c fuel).attempt b = .ok ((), atWaypoint n b) := by
  induction fuel generalizing b with
  | zero => omega
  | succ fuel ih =>
    obtain ⟨w, hw⟩ := Option.isSome_iff_exists.mp (waypointAt_isSome.mpr hi)
    cases hc : crossed c w b.record.estX b.record.estY with
    | false =>
      exact ⟨_, firstAhead_self hw hc, by rw [attempt_advanceProg_of_ahead fuel hw hc, atWaypoint_wpIndex]⟩
    | true =>
      have hlt := lt_tableLen_of_crossed hw hc
      have hnext : (atWaypoint (b.record.wpIndex.toNat + 1) b).record.wpIndex.toNat = b.record.wpIndex.toNat + 1 :=
        Nat.mod_eq_of_lt (by omega)
      obtain ⟨n, hn, hrun⟩ := ih (b := atWaypoint (b.record.wpIndex.toNat + 1) b) (by omega) (by omega)
      rw [hnext] at hn
      exact ⟨n, hn.of_succ hw hc, by rw [attempt_advanceProg_of_crossed fuel hw hc, hrun, atWaypoint_atWaypoint]⟩

theorem attempt_gdeAdvanceProg {b : Block} (hi : b.record.wpIndex.toNat ≤ b.cfg.tableLen) (hT : b.cfg.tableLen ≤ 254) :
    ∃ n, FirstAhead b.cfg b.record.estX b.record.estY b.record.wpIndex.toNat n
      ∧ (gdeAdvanceProg b.cfg).attempt b = .ok ((), atWaypoint n b) :=
  attempt_advanceProg hT _ hi (by omega)

/-- Settles O43: the loop's turns suffice, since it stops at the terminal waypoint at the latest. -/
theorem gdeAdvancePassesCrossed : Obligations.GdeAdvancePassesCrossed := by
  unfold Obligations.GdeAdvancePassesCrossed
  intro s hi hT
  obtain ⟨n, hn, hrun⟩ := attempt_gdeAdvanceProg hi hT
  exact ⟨n, hn.le, hn.inTable, by rw [exec_gdeAdvance, perform_eq_next hrun]; rfl, hn.passed, hn.ahead⟩

end Sys2Proof.Machine
end

section
/-!
SUPPORT. The angle to the active waypoint (`46_guidance.md` rules R235 and R236): the length of the vector to it, the clamped
quotient whose arcsine the angle is, and the sign that goes through both.
-/

namespace Sys2Proof.Machine

/-! ## The vector to the waypoint -/

/-- The length of a vector (R235). -/
def vectorLength (wx wy : F32) : F32 := f32Sqrt (f32Add (f32Mul wx wx) (f32Mul wy wy))

/-- The cross product of the heading unit vector and a vector (R235). -/
def headingCross (heading wx wy : F32) : F32 := f32Sub (f32Mul (f32Cos heading) wy) (f32Mul (f32Sin heading) wx)

/-- A vector of numbers has a length, +0.0 of the zero vector. -/
theorem vectorLength_eq {wx wy : F32} (hx : f32IsNan wx = false) (hy : f32IsNan wy = false) :
    ∃ p, p ≤ 0x7F800000 ∧ vectorLength wx wy = f32Pack false p ∧ (f32Mag wx = 0 → f32Mag wy = 0 → p = 0) := by
  obtain ⟨p, hp, hpe, hp0⟩ := f32Mul_self_eq hx
  obtain ⟨q, hq, hqe, hq0⟩ := f32Mul_self_eq hy
  obtain ⟨r, hr, hre, hr0⟩ := f32Add_pack_false hp hq
  have hr31 : r < 2 ^ 31 := by omega
  obtain ⟨l, hl, hle, hl0⟩ := f32Sqrt_eq (f32IsNan_pack false hr) (f32Sign_pack false hr31)
  refine ⟨l, hl, by rw [vectorLength, hpe, hqe, hre, hle], fun h0 h1 => ?_⟩
  rw [hl0, hr0 (hp0 h0) (hq0 h1), f32Mag_pack_zero]

theorem vectorLength_zero {wx wy : F32} (hx : f32Eq wx 0#32 = true) (hy : f32Eq wy 0#32 = true) : vectorLength wx wy = 0#32 := by
  obtain ⟨hxn, hx0⟩ := f32Eq_zero_iff.mp hx
  obtain ⟨hyn, hy0⟩ := f32Eq_zero_iff.mp hy
  obtain ⟨p, -, he, hp⟩ := vectorLength_eq hxn hyn
  rw [he, hp hx0 hy0]
  rfl

/-- A cross product that is a number is one of numbers. -/
theorem numbers_of_headingCross {heading wx wy : F32} (h : f32IsNan (headingCross heading wx wy) = false) :
    f32IsNan wx = false ∧ f32IsNan wy = false := by
  obtain ⟨hcos, hsin⟩ := numbers_of_sub h
  obtain ⟨-, hy⟩ := numbers_of_mul hcos
  obtain ⟨-, hx⟩ := numbers_of_mul hsin
  exact ⟨hx, hy⟩

/-! ## The clamped quotient -/

/-- The clamp of a quotient to -1 and 1 (R235). -/
def clampUnit (q : F32) : F32 :=
  let r := if f32Lt 0x3F800000#32 q then 0x3F800000#32 else q
  if f32Lt r 0xBF800000#32 then 0xBF800000#32 else r

theorem clampUnit_of_above {q : F32} (h : f32Lt 0x3F800000#32 q = true) : clampUnit q = 0x3F800000#32 := by
  rw [clampUnit, if_pos h, if_neg (by decide)]

theorem clampUnit_of_not_above {q : F32} (h : f32Lt 0x3F800000#32 q = false) :
    clampUnit q = if f32Lt q 0xBF800000#32 then 0xBF800000#32 else q := by
  rw [clampUnit, if_neg (Bool.eq_false_iff.mp h)]

theorem clampUnit_of_below {q : F32} (h : f32Lt q 0xBF800000#32 = true) : clampUnit q = 0xBF800000#32 := by
  have habove : f32Lt 0x3F800000#32 q = false :=
    Bool.eq_false_iff.mpr fun ha => absurd (f32Lt_trans ha h) (by decide)
  rw [clampUnit_of_not_above habove, if_pos h]

theorem clampUnit_of_within {q : F32} (ha : f32Lt 0x3F800000#32 q = false) (hb : f32Lt q 0xBF800000#32 = false) : clampUnit q = q := by
  rw [clampUnit_of_not_above ha, if_neg (Bool.eq_false_iff.mp hb)]

theorem clampUnit_within (q : F32) :
    f32Lt 0x3F800000#32 (clampUnit q) = false ∧ f32Lt (clampUnit q) 0xBF800000#32 = false := by
  cases ha : f32Lt 0x3F800000#32 q with
  | true => rw [clampUnit_of_above ha]; decide
  | false =>
    cases hb : f32Lt q 0xBF800000#32 with
    | true => rw [clampUnit_of_below hb]; decide
    | false => rw [clampUnit_of_within ha hb]; exact ⟨ha, hb⟩

/-- The clamp leaves a NaN one. -/
theorem number_of_clampUnit {q : F32} (h : f32IsNan (clampUnit q) = false) : f32IsNan q = false := by
  by_contra hq
  have hnan := Bool.eq_true_of_not_eq_false hq
  rw [clampUnit_of_within (by rw [f32Lt, hnan]; rfl) (by rw [f32Lt, hnan]; rfl)] at h
  exact hq h

/-- The clamp gives no value a sign it did not have. -/
theorem hasSign_of_clampUnit {s : Bool} {q : F32} (h : HasSign s (clampUnit q)) : HasSign s q := by
  cases ha : f32Lt 0x3F800000#32 q with
  | true =>
    rw [clampUnit_of_above ha] at h
    obtain rfl := h.sign
    exact f32Lt_zero_left_iff.mp (f32Lt_trans (by decide) ha)
  | false =>
    cases hb : f32Lt q 0xBF800000#32 with
    | true =>
      rw [clampUnit_of_below hb] at h
      obtain rfl := h.sign
      exact f32Lt_zero_right_iff.mp (f32Lt_trans hb (by decide))
    | false => rwa [clampUnit_of_within ha hb] at h

/-! ## GDE.ANGLE -/

theorem exec_gdeAngle_of_waypoint {s : State} {w : Waypoint} (h : waypointAt s.blk.cfg s.blk.record.wpIndex.toNat = some w)
    (px py heading : F32) :
    exec (.gdeAngle px py heading) s = done (setRet (.float (targetAngle w px py heading))) s := by
  change execGdeAngle px py heading s = _
  rw [execGdeAngle, h]

theorem exec_gdeAngle_of_none {s : State} (h : waypointAt s.blk.cfg s.blk.record.wpIndex.toNat = none) (px py heading : F32) :
    exec (.gdeAngle px py heading) s = .fault .waypointIndex := by
  change execGdeAngle px py heading s = _
  rw [execGdeAngle, h]

/-- The sine of the angle: the quotient of cross product and length, clamped (R235). -/
def angleSine (heading wx wy : F32) : F32 := clampUnit (f32Div (headingCross heading wx wy) (vectorLength wx wy))

theorem targetAngle_of_near {w : Waypoint} {px py : F32} (h : f32Eq (vectorLength (f32Sub w.posX px) (f32Sub w.posY py)) 0#32 = true)
    (heading : F32) : targetAngle w px py heading = 0#32 := if_pos h

theorem targetAngle_of_far {w : Waypoint} {px py : F32} (h : f32Eq (vectorLength (f32Sub w.posX px) (f32Sub w.posY py)) 0#32 = false)
    (heading : F32) : targetAngle w px py heading = f32Asin (angleSine heading (f32Sub w.posX px) (f32Sub w.posY py)) :=
  if_neg (Bool.eq_false_iff.mp h)

/-- The angle has no sign but the cross product's: the length of a vector of numbers is positive where it is not zero. -/
theorem hasSign_headingCross {s : Bool} {heading wx wy : F32} (hlen : f32Eq (vectorLength wx wy) 0#32 = false)
    (hr : f32IsNan (angleSine heading wx wy) = false) (h : HasSign s (f32Asin (angleSine heading wx wy))) :
    HasSign s (headingCross heading wx wy) := by
  obtain ⟨hz, -⟩ := numbers_of_div (number_of_clampUnit hr)
  obtain ⟨hx, hy⟩ := numbers_of_headingCross hz
  obtain ⟨p, hp, he, -⟩ := vectorLength_eq hx hy
  have hp0 : p ≠ 0 := by
    rintro rfl
    rw [he] at hlen
    exact absurd hlen (by decide)
  have hpos : HasSign false (vectorLength wx wy) := by
    rw [he]
    exact (hasSign_pack_iff hp).mpr ⟨rfl, hp0⟩
  exact hasSign_of_div hpos (hasSign_of_clampUnit ((hasSign_asin_iff hr).mp h))

/-! ## An index above the table -/

theorem perform_eq_fault {α : Type} {p : Prog α} {s : State} {f : Fault} (h : p.attempt s.blk = .error (.fault f)) :
    perform p s = .fault f := by
  rw [perform, h]
  rfl

theorem attempt_withWaypoint_of_above {c : Config} {b : Block} (use : Waypoint → Prog Unit) (h : c.tableLen < b.record.wpIndex.toNat) :
    (withWaypoint c use).attempt b = .error (.fault .waypointIndex) := by
  rw [withWaypoint, Prog.attempt_bind, (total_readReg _).attempt, run_readReg, Except.bind, wpIndexReg_get, Prog.attempt_andThen,
    Prog.require, Prog.attempt_need_some _ (by rw [waypointStop, waypointAt_eq_none h])]
  rfl

theorem attempt_steerTo (c : Config) (angle : F32) (b : Block) :
    (steerTo c angle).attempt b = .ok ((), { b with record := { b.record with steerUs := steerWidth c (clampAngle c angle) } }) := by
  rw [steerTo, (total_writeReg _ _).attempt, ← steerTo, run_steerTo]

section
variable {b : Block} (h : b.cfg.tableLen < b.record.wpIndex.toNat)
include h

theorem attempt_gdeAdvanceProg_of_above : (gdeAdvanceProg b.cfg).attempt b = .error (.fault .waypointIndex) :=
  attempt_withWaypoint_of_above _ h

theorem attempt_gdeUpdateProg_of_above : (gdeUpdateProg b.cfg).attempt b = .error (.fault .waypointIndex) := by
  rw [gdeUpdateProg, Prog.attempt_andThen, attempt_gdeAdvanceProg_of_above h]
  rfl

/-- The steering width is written before the index is looked up. -/
theorem attempt_actUpdateProg_of_above : (actUpdateProg b.cfg).attempt b = .error (.fault .waypointIndex) := by
  rw [actUpdateProg, Prog.attempt_bind, (total_readReg _).attempt, run_readReg, Except.bind, Prog.attempt_andThen,
    attempt_steerTo, Except.bind, Prog.attempt_andThen, attempt_withWaypoint_of_above]
  · rfl
  · exact h

end

/-- Settles O44: the angle is the arcsine of the clamped quotient, whose sign goes back through clamp and quotient to the cross
product; above the table each operation stops where it looks the waypoint up. -/
theorem gdeAngleToWaypoint : Obligations.GdeAngleToWaypoint := by
  unfold Obligations.GdeAngleToWaypoint
  intro s px py heading
  refine ⟨fun w hw => ⟨_, exec_gdeAngle_of_waypoint hw px py heading,
    fun hx hy => targetAngle_of_near (by rw [vectorLength_zero hx hy]; decide) heading,
    fun hlen => targetAngle_of_near hlen heading, fun hlen => ?_⟩, fun habove i hi => ?_⟩
  · rw [targetAngle_of_far hlen]
    obtain ⟨hle, hge⟩ := clampUnit_within (f32Div (headingCross heading (f32Sub w.posX px) (f32Sub w.posY py))
      (vectorLength (f32Sub w.posX px) (f32Sub w.posY py)))
    refine ⟨angleSine heading (f32Sub w.posX px) (f32Sub w.posY py), rfl, hle, hge,
      ⟨clampUnit_of_within, clampUnit_of_above, clampUnit_of_below⟩, fun hr => ?_⟩
    obtain ⟨hnum, hmag⟩ := f32Asin_number_le hr
    refine ⟨hnum, hmag, ?_, ?_, fun h1 => ?_, fun h1 => ?_, fun ha => ?_, fun ha => ?_⟩
    · rw [f32Lt_zero_left_iff, f32Lt_zero_left_iff, hasSign_asin_iff hr]
    · rw [f32Lt_zero_right_iff, f32Lt_zero_right_iff, hasSign_asin_iff hr]
    · rw [h1]
      exact f32Asin_of_one_le (by decide) (by decide)
    · rw [h1]
      exact f32Asin_of_one_le (by decide) (by decide)
    · exact f32Lt_zero_left_iff.mpr (hasSign_headingCross hlen hr (f32Lt_zero_left_iff.mp ha))
    · exact f32Lt_zero_right_iff.mpr (hasSign_headingCross hlen hr (f32Lt_zero_right_iff.mp ha))
  · simp only [List.mem_cons, List.not_mem_nil, or_false] at hi
    obtain rfl | rfl | rfl | rfl := hi
    · exact exec_gdeAngle_of_none (waypointAt_eq_none habove) px py heading
    · exact perform_eq_fault (attempt_gdeAdvanceProg_of_above habove)
    · exact perform_eq_fault (attempt_gdeUpdateProg_of_above habove)
    · exact perform_eq_fault (attempt_actUpdateProg_of_above habove)

/-! ## GDE.UPDATE -/

theorem exec_gdeUpdate (s : State) : exec .gdeUpdate s = perform (gdeUpdateProg s.blk.cfg) s := rfl

/-- The angle from the estimated pose to the active waypoint is written to `wp_angle` (R236). -/
theorem attempt_aimProg {c : Config} {b : Block} {w : Waypoint} (hw : waypointAt c b.record.wpIndex.toNat = some w) :
    (aimProg c).attempt b = .ok ((), { b with record := { b.record with
      wpAngle := targetAngle w b.record.estX b.record.estY b.record.estHeading } }) := by
  simp only [aimProg, Prog.attempt_bind, (total_readReg _).attempt, run_readReg, Except.bind, attempt_withWaypoint _ hw,
    (total_writeReg _ _).attempt, run_write_wpAngleReg, estXReg_get, estYReg_get, estHeadingReg_get]

/-- Settles O45: the waypoint the advance stops at is there to aim at. -/
theorem gdeUpdateAdvancesThenAims : Obligations.GdeUpdateAdvancesThenAims := by
  unfold Obligations.GdeUpdateAdvancesThenAims
  intro s hi hT
  obtain ⟨n, hn, hrun⟩ := attempt_gdeAdvanceProg hi hT
  obtain ⟨w, hw, -⟩ := hn.ahead
  have hindex : (atWaypoint n s.blk).record.wpIndex.toNat = n := Nat.mod_eq_of_lt (by have := hn.inTable; omega)
  have hactive : waypointAt s.blk.cfg (atWaypoint n s.blk).record.wpIndex.toNat = some w := by rw [hindex, hw]
  refine ⟨s.mapBlk (atWaypoint n), _, _, perform_eq_next hrun, exec_gdeAngle_of_waypoint hactive _ _ _, ?_, rfl⟩
  have hupdate : (gdeUpdateProg s.blk.cfg).attempt s.blk = .ok ((), setPhase 6#4 { atWaypoint n s.blk with
      record := { (atWaypoint n s.blk).record with
        wpAngle := targetAngle w s.blk.record.estX s.blk.record.estY s.blk.record.estHeading } }) := by
    rw [gdeUpdateProg, Prog.attempt_andThen, hrun, Except.bind, Prog.attempt_andThen, attempt_aimProg hactive, Except.bind,
      (total_endPhase _).attempt, run_endPhase]
    rfl
  rw [exec_gdeUpdate, perform_eq_next hupdate]
  rfl

end Sys2Proof.Machine
end

section
/-!
SUPPORT. The drive commands (`47_actuation.md` rules R248 to R252).
-/

namespace Sys2Proof.Machine

/-! ## ACT.FWD -/

theorem exec_actFwd_of_width {s : State} {k : Byte} {us : U16} (h : fwdWidth s.blk.cfg k.toNat = some us) :
    exec (.actFwd k) s = complete (driveForward us) s := by
  simp only [exec, execActFwd, h]

theorem exec_actRev_of_width {s : State} {k : Byte} {us : U16} (h : revWidth s.blk.cfg k.toNat = some us) :
    exec (.actRev k) s = complete (driveReverse s.blk.cfg us) s := by
  simp only [exec, execActRev, h]

/-- Settles O46: the class selects its width, or none. -/
theorem actFwdSetsWidth : Obligations.ActFwdSetsWidth := by
  unfold Obligations.ActFwdSetsWidth
  refine fun s k => ⟨fun us hk hus => ?_, fun hk => ?_⟩
  · rw [exec_actFwd_of_width ((if_pos hk).trans hus), complete]
    exact done_eq_next (congrArg Prod.snd (run_driveForward us s.blk))
  · have hfwd : fwdWidth s.blk.cfg k.toNat = none := if_neg (Nat.not_lt.mpr hk)
    have hrev : revWidth s.blk.cfg k.toNat = none := if_neg (Nat.not_lt.mpr hk)
    simp only [exec, execActFwd, execActRev, hfwd, hrev, and_self]

/-! ## ACT.STOP -/

/-- The block with the throttle width, the drive state and the hold counter replaced. -/
def driven (us : U16) (d : DriveState) (h : Byte) (b : Block) : Block :=
  { b with record := { b.record with throttleUs := us }, act := { drive := d, hold := h } }

/-- The three registers after one step of the ramp from a width `t` (R250). -/
def RampStep (n : U16) (step : Nat) (d : DriveState) (t us : U16) (d' : DriveState) : Prop :=
  (t.toNat ≤ n.toNat + step → n.toNat ≤ t.toNat + step → us = n ∧ d' = .neutral)
    ∧ (n.toNat + step < t.toNat → us.toNat = t.toNat - step ∧ d' = d)
    ∧ (t.toNat + step < n.toNat → us.toNat = t.toNat + step ∧ d' = d)

/-- Within one step the ramp snaps, further away it moves by one step. -/
theorem rampWidth_cases (c : Config) (step : Nat) (t : U16) :
    (rampWidth c step t = none ∧ t.toNat ≤ c.neutralUs.toNat + step ∧ c.neutralUs.toNat ≤ t.toNat + step)
    ∨ (∃ us, rampWidth c step t = some us ∧ us.toNat = t.toNat - step ∧ c.neutralUs.toNat + step < t.toNat)
    ∨ ∃ us, rampWidth c step t = some us ∧ us.toNat = t.toNat + step ∧ t.toNat + step < c.neutralUs.toNat := by
  have ht := t.isLt
  have hn := c.neutralUs.isLt
  unfold rampWidth
  dsimp only
  split
  · split
    · exact .inl ⟨rfl, by omega, by omega⟩
    · exact .inr (.inl ⟨_, rfl, Nat.mod_eq_of_lt (by omega), by omega⟩)
  · split
    · exact .inl ⟨rfl, by omega, by omega⟩
    · exact .inr (.inr ⟨_, rfl, Nat.mod_eq_of_lt (by omega), by omega⟩)

/-- The ramp as a whole writes the width and the state, and nothing else. -/
theorem run_rampToNeutral_driven (c : Config) (step : Nat) (b : Block) :
    ∃ us d, (rampToNeutral c step).run b = ((), driven us d b.act.hold b)
      ∧ RampStep c.neutralUs step b.act.drive b.record.throttleUs us d := by
  rw [run_rampToNeutral]
  obtain ⟨h, hle, hge⟩ | ⟨us, h, hus, hlt⟩ | ⟨us, h, hus, hlt⟩ := rampWidth_cases c step b.record.throttleUs <;> rw [h]
  · exact ⟨_, _, rfl, fun _ _ => ⟨rfl, rfl⟩, fun h => absurd hle (by omega), fun h => absurd hge (by omega)⟩
  · exact ⟨_, _, rfl, fun h => absurd h (by omega), fun _ => ⟨hus, rfl⟩, fun h => absurd h (by omega)⟩
  · exact ⟨_, _, rfl, fun _ h => absurd h (by omega), fun h => absurd h (by omega), fun _ => ⟨hus, rfl⟩⟩

theorem exec_actStop (s : State) : exec .actStop s = complete (driveStop s.blk.cfg) s := rfl

/-- What `ACT.STOP` leaves in the three registers, by the drive state it finds (R250). -/
structure StopStep (b : Block) (us : U16) (d : DriveState) (h : Byte) : Prop where
  neutral : b.act.drive = .neutral → us = b.cfg.neutralUs ∧ d = .neutral ∧ h = b.act.hold
  preReverse : b.act.drive = .preReverse → us = b.cfg.neutralUs ∧ d = .neutral ∧ h = 0#8
  ramp : ∀ step, (b.act.drive = .forward ∧ step = b.cfg.stepFromFwd ∨ b.act.drive = .reverse ∧ step = b.cfg.stepFromRev) →
    h = b.act.hold ∧ RampStep b.cfg.neutralUs step b.act.drive b.record.throttleUs us d

theorem run_driveStop (b : Block) : ∃ us d h, (driveStop b.cfg).run b = ((), driven us d h b) ∧ StopStep b us d h := by
  rw [driveStop, run_caseDrive]
  cases hd : b.act.drive with
  | neutral =>
    refine ⟨b.cfg.neutralUs, .neutral, b.act.hold, ?_, ⟨fun _ => ⟨rfl, rfl, rfl⟩, by simp [hd], by simp [hd]⟩⟩
    simp [driven, ← hd]
  | preReverse =>
    refine ⟨b.cfg.neutralUs, .neutral, 0#8, ?_, ⟨by simp [hd], fun _ => ⟨rfl, rfl, rfl⟩, by simp [hd]⟩⟩
    simp [driven, setDrive]
  | forward =>
    obtain ⟨us, d, hrun, hstep⟩ := run_rampToNeutral_driven b.cfg b.cfg.stepFromFwd b
    refine ⟨us, d, b.act.hold, hrun, ⟨by simp [hd], by simp [hd], fun step hs => ?_⟩⟩
    obtain rfl : step = b.cfg.stepFromFwd := by simpa [hd] using hs
    exact ⟨rfl, hstep⟩
  | reverse =>
    obtain ⟨us, d, hrun, hstep⟩ := run_rampToNeutral_driven b.cfg b.cfg.stepFromRev b
    refine ⟨us, d, b.act.hold, hrun, ⟨by simp [hd], by simp [hd], fun step hs => ?_⟩⟩
    obtain rfl : step = b.cfg.stepFromRev := by simpa [hd] using hs
    exact ⟨rfl, hstep⟩

theorem exec_actStop_driven (s : State) :
    ∃ us d h, exec .actStop s = .next (s.mapBlk (driven us d h)) ∧ StopStep s.blk us d h := by
  obtain ⟨us, d, h, hrun, hstep⟩ := run_driveStop s.blk
  exact ⟨us, d, h, done_eq_next (congrArg Prod.snd hrun), hstep⟩

/-- From `Forward` one call moves the width by a step or, within one step, ends in `Neutral`. -/
theorem exec_actStop_forward {s : State} {dist : Nat} (hd : s.blk.act.drive = .forward)
    (ht : s.blk.record.throttleUs.toNat = s.blk.cfg.neutralUs.toNat + dist) :
    ∃ t, exec .actStop s = .next t ∧ t.blk.cfg = s.blk.cfg
      ∧ (s.blk.cfg.stepFromFwd < dist → t.blk.act.drive = .forward
        ∧ t.blk.record.throttleUs.toNat = s.blk.cfg.neutralUs.toNat + (dist - s.blk.cfg.stepFromFwd))
      ∧ (dist ≤ s.blk.cfg.stepFromFwd → t.blk.act.drive = .neutral ∧ t.blk.record.throttleUs = s.blk.cfg.neutralUs) := by
  obtain ⟨us, d, h, hexec, hstep⟩ := exec_actStop_driven s
  obtain ⟨-, hsnap, hmove, -⟩ := hstep.ramp _ (.inl ⟨hd, rfl⟩)
  refine ⟨_, hexec, rfl, fun hlt => ?_, fun hle => ?_⟩
  · obtain ⟨hus, rfl⟩ := hmove (by omega)
    exact ⟨hd, by rw [mapBlk_blk, driven, hus, ht]; omega⟩
  · obtain ⟨rfl, rfl⟩ := hsnap (by omega) (by omega)
    exact ⟨rfl, rfl⟩

theorem execAll_cons_of_next {i : Instr} {is : List Instr} {s t : State} (h : exec i s = .next t) :
    execAll (i :: is) s = execAll is t := by
  rw [execAll, h]

/-- The calls before the last one each take one step. -/
theorem execAll_actStop_ramp (m : Nat) {s : State} {dist : Nat} (hd : s.blk.act.drive = .forward)
    (ht : s.blk.record.throttleUs.toNat = s.blk.cfg.neutralUs.toNat + dist) (hm : m = 0 ∨ m * s.blk.cfg.stepFromFwd < dist) :
    ∃ t, execAll (List.replicate m .actStop) s = .next t ∧ t.blk.cfg = s.blk.cfg ∧ t.blk.act.drive = .forward
      ∧ t.blk.record.throttleUs.toNat = s.blk.cfg.neutralUs.toNat + (dist - m * s.blk.cfg.stepFromFwd) := by
  induction m generalizing s dist with
  | zero => exact ⟨s, rfl, rfl, hd, by simpa using ht⟩
  | succ m ih =>
    have hlt : m * s.blk.cfg.stepFromFwd + s.blk.cfg.stepFromFwd < dist := by
      rw [← Nat.succ_mul]
      exact hm.resolve_left (Nat.succ_ne_zero m)
    obtain ⟨t, hexec, hcfg, hmove, -⟩ := exec_actStop_forward hd ht
    obtain ⟨hd', ht'⟩ := hmove (by omega)
    rw [← hcfg] at ht' hlt ⊢
    obtain ⟨u, hall, hcfg', hd'', ht''⟩ := ih hd' ht' (.inr (by omega))
    refine ⟨u, by rw [List.replicate_succ, execAll_cons_of_next hexec, hall], hcfg', hd'', ?_⟩
    rw [ht'', Nat.succ_mul, Nat.sub_sub, Nat.add_comm t.blk.cfg.stepFromFwd]

theorem execAll_append {is js : List Instr} {s t : State} (h : execAll is s = .next t) :
    execAll (is ++ js) s = execAll js t := by
  induction is generalizing s with
  | nil => rw [List.nil_append, ← Host.Outcome.next.inj h]
  | cons i is ih =>
    cases he : exec i s with
    | next u =>
      rw [execAll_cons_of_next he] at h
      rw [List.cons_append, execAll_cons_of_next he, ih h]
    | fault f => simp [execAll, he] at h
    | refused r => simp [execAll, he] at h

/-- Settles O47: one call is one step of the ramp, and the ramp is as many steps as fit, then the snap. -/
theorem actStopRampsToNeutral : Obligations.ActStopRampsToNeutral := by
  unfold Obligations.ActStopRampsToNeutral
  refine ⟨fun s => ?_, fun s n dist hd _ ht hn hlast => ⟨fun m hm => ?_, ?_⟩⟩
  · obtain ⟨us, d, h, hexec, hstep⟩ := exec_actStop_driven s
    exact ⟨us, d, h, hexec, hstep.neutral, hstep.preReverse, hstep.ramp⟩
  · have hlt : m * s.blk.cfg.stepFromFwd < dist := lt_of_le_of_lt (Nat.mul_le_mul_right _ hm) hn
    obtain ⟨t, hall, -, hd', ht'⟩ := execAll_actStop_ramp m hd ht (.inr hlt)
    exact ⟨t, hall, hd', by omega⟩
  · obtain ⟨t, hall, hcfg, hd', ht'⟩ := execAll_actStop_ramp n hd ht (.inr hn)
    rw [← hcfg] at ht' hlast hn ⊢
    obtain ⟨u, hexec, -, -, hsnap⟩ := exec_actStop_forward hd' ht'
    obtain ⟨hdu, htu⟩ := hsnap (by rw [Nat.succ_mul] at hlast; omega)
    refine ⟨u, ?_, hdu, htu⟩
    rw [List.replicate_succ', execAll_append hall, execAll_cons_of_next hexec, execAll]

/-! ## ACT.REV -/

/-- In `Reverse` a width slower than the target or within one ramp step of it becomes the target, a faster one ramps (R252). -/
theorem reverseWidth_cases (c : Config) (target now : U16) :
    (now.toNat ≤ target.toNat + c.revRampStep → reverseWidth c target now = target)
    ∧ (target.toNat + c.revRampStep < now.toNat → (reverseWidth c target now).toNat = now.toNat - c.revRampStep) := by
  have hnow := now.isLt
  unfold reverseWidth
  split
  · exact ⟨fun _ => rfl, fun h => absurd h (by omega)⟩
  · split
    · exact ⟨fun _ => rfl, fun h => absurd h (by omega)⟩
    · exact ⟨fun h => absurd h (by omega), fun _ => Nat.mod_eq_of_lt (by omega)⟩

/-- `drive_reverse` in the states it drives itself; in `Forward` it is `stop` (R252). -/
theorem run_driveReverse_of_reverse {b : Block} (h : b.act.drive = .reverse) (c : Config) (target : U16) :
    (driveReverse c target).run b = ((), { b with record := { b.record with throttleUs := reverseWidth c target b.record.throttleUs } }) := by
  simp [driveReverse, run_caseDrive, h, modifyReg]

theorem run_driveReverse_of_forward {b : Block} (h : b.act.drive = .forward) (c : Config) (target : U16) :
    (driveReverse c target).run b = (driveStop c).run b := by
  simp only [driveReverse, driveStop, run_caseDrive, h]

theorem run_driveReverse_of_neutral {b : Block} (h : b.act.drive = .neutral) (c : Config) (target : U16) :
    (driveReverse c target).run b = ((), driven c.preReverseUs .preReverse 0#8 b) := by
  simp [driveReverse, run_caseDrive, h, driven, setDrive]

theorem run_driveReverse_of_preReverse {b : Block} (h : b.act.drive = .preReverse) (c : Config) (target : U16) :
    (driveReverse c target).run b = ((), { b with act :=
      { drive := if c.preReverseHold ≤ (b.act.hold + 1#8).toNat then .reverse else .preReverse, hold := b.act.hold + 1#8 } }) := by
  simp only [driveReverse, run_caseDrive, h, modifyReg, Prog.run_andThen, Prog.run_bind, run_readReg, holdReg_get, run_write_holdReg]
  split
  · rfl
  · rw [← h]
    rfl

/-- Settles O48: the four arms of `drive_reverse`. -/
theorem actRevApproachesReverse : Obligations.ActRevApproachesReverse := by
  unfold Obligations.ActRevApproachesReverse
  intro s k target hk htarget
  rw [exec_actRev_of_width ((if_pos hk).trans htarget), complete]
  refine ⟨fun hd => ?_, fun hd => ?_, fun hd => ?_, fun hd => ?_⟩
  · obtain ⟨hsnap, hmove⟩ := reverseWidth_cases s.blk.cfg target s.blk.record.throttleUs
    exact ⟨_, done_eq_next (congrArg Prod.snd (run_driveReverse_of_reverse hd _ _)), hsnap, hmove⟩
  · exact done_eq_next (congrArg Prod.snd (run_driveReverse_of_forward hd _ _))
  · exact done_eq_next (congrArg Prod.snd (run_driveReverse_of_neutral hd _ _))
  · exact done_eq_next (congrArg Prod.snd (run_driveReverse_of_preReverse hd _ _))

end Sys2Proof.Machine
end

section
/-!
SUPPORT. The pulse generators, the per-cycle step and the start-up run (`47_actuation.md` rules R258 to R264).
-/

namespace Sys2Proof.Machine

/-! ## Pulse generators -/

theorem exec_plsStart (ch : Channel) (s : State) : exec (.plsStart ch) s = done (pulseStart ch) s := rfl

theorem exec_plsTick (ch : Channel) (s : State) : exec (.plsTick ch) s = done (pulseTick ch) s := rfl

theorem exec_plsMatch (ch : Channel) (s : State) : exec (.plsMatch ch) s = done (pulseMatch ch) s := rfl

/-- The pulse of a channel and the pending events, the rest of the block kept. -/
def withPulse (ch : Channel) (p : Pulse) (pending : List Event) (b : Block) : Block :=
  setPulse ch p { b with irq := { b.irq with pending := pending } }

theorem withPulse_eq (ch : Channel) (p : Pulse) (b : Block) : withPulse ch p b.irq.pending b = setPulse ch p b := by
  cases ch <;> rfl

@[simp] theorem getPulse_withPulse (ch : Channel) (p : Pulse) (pending : List Event) (b : Block) :
    getPulse ch (withPulse ch p pending b) = p := getPulse_setPulse ch p _

@[simp] theorem withPulse_irq (ch : Channel) (p : Pulse) (pending : List Event) (b : Block) :
    (withPulse ch p pending b).irq = { b.irq with pending := pending } := setPulse_irq ch p _

theorem withPulse_withPulse (ch : Channel) (p q : Pulse) (es es' : List Event) (b : Block) :
    withPulse ch q es' (withPulse ch p es b) = withPulse ch q es' b := by
  cases ch <;> rfl

theorem pulseTick_of_stopped {ch : Channel} {b : Block} (h : (getPulse ch b).run = false) : pulseTick ch b = b := by
  simp [pulseTick, h]

/-- A running counter advances, and raises the match where it reaches the compare value and the sources are enabled (R259). -/
theorem pulseTick_of_running {ch : Channel} {b : Block} (h : (getPulse ch b).run = true) :
    pulseTick ch b = withPulse ch { getPulse ch b with cnt := (getPulse ch b).cnt + 1#16 }
      (if (getPulse ch b).cnt + 1#16 = (getPulse ch b).ocr ∧ b.irq.enabled = true then b.irq.pending ++ [.cm ch] else b.irq.pending) b := by
  simp only [pulseTick, h, if_true]
  by_cases hm : (getPulse ch b).cnt + 1#16 = (getPulse ch b).ocr
  · cases he : b.irq.enabled
    · simp only [hm, if_true, Bool.false_eq_true, and_false, if_false, withPulse_eq]
      exact raiseEvent_of_disabled _ (by rw [setPulse_irq, he])
    · simp only [hm, if_true, and_self]
      rw [raiseEvent_of_enabled _ (by rw [setPulse_irq, he])]
      cases ch <;> rfl
  · simp only [hm, if_false, false_and, withPulse_eq]

theorem pulseMatch_eq (ch : Channel) (b : Block) :
    pulseMatch ch b = withPulse ch { getPulse ch b with out := false, run := false } (b.irq.pending.erase (.cm ch)) b := rfl

/-! ### How long a pulse lasts -/

/-- A pulse of `ticks` ticks after `n` of them. -/
def pulseAfter (ticks n : Nat) : Pulse := { out := true, ocr := BitVec.ofNat 16 ticks, cnt := BitVec.ofNat 16 n, run := true }

/-- A tick before the last one only advances the counter, the last one raises the match too. -/
theorem pulseTick_pulseAfter {ch : Channel} {b : Block} {ticks n : Nat} (hp : getPulse ch b = pulseAfter ticks n)
    (hn : n < ticks) (ht : ticks ≤ 65535) (he : b.irq.enabled = true) :
    pulseTick ch b = withPulse ch (pulseAfter ticks (n + 1))
      (if n + 1 = ticks then b.irq.pending ++ [.cm ch] else b.irq.pending) b := by
  have hcnt : BitVec.ofNat 16 n + 1#16 = BitVec.ofNat 16 (n + 1) := BitVec.eq_of_toNat_eq (by simp)
  have hreach : BitVec.ofNat 16 (n + 1) = BitVec.ofNat 16 ticks ↔ n + 1 = ticks := by
    rw [← BitVec.toNat_inj, BitVec.toNat_ofNat, BitVec.toNat_ofNat]
    omega
  rw [pulseTick_of_running (by rw [hp]; rfl), hp]
  simp only [pulseAfter, hcnt, hreach, he, and_true]

/-- The ticks of a pulse: nothing is raised before the last one. -/
theorem execAll_plsTick {ch : Channel} {ticks : Nat} {s : State} (hp : getPulse ch s.blk = pulseAfter ticks 0) (ht : ticks ≤ 65535)
    (he : s.blk.irq.enabled = true) {n : Nat} (hn : n ≤ ticks) (hpos : 1 ≤ ticks) :
    execAll (List.replicate n (.plsTick ch)) s = .next (s.mapBlk (withPulse ch (pulseAfter ticks n)
      (if n = ticks then s.blk.irq.pending ++ [.cm ch] else s.blk.irq.pending))) := by
  induction n with
  | zero =>
    rw [if_neg (by omega), List.replicate_zero, execAll, ← hp]
    exact (done_eq_self (f := withPulse ch (getPulse ch s.blk) s.blk.irq.pending) (by cases ch <;> rfl)).symm
  | succ n ih =>
    rw [List.replicate_succ', execAll_append (ih (by omega)), if_neg (by omega), execAll, exec_plsTick, done]
    rw [mapBlk_mapBlk]
    refine done_eq_next ?_
    rw [pulseTick_pulseAfter (getPulse_withPulse ch _ _ s.blk) (by omega) ht (by rw [withPulse_irq]; exact he), withPulse_withPulse,
      withPulse_irq]

/-- Settles O52: the three steps as they stand, and the ticks of a pulse counted. -/
theorem pulseGeneratorSteps : Obligations.PulseGeneratorSteps := by
  unfold Obligations.PulseGeneratorSteps
  refine ⟨fun s ch => ⟨?_, ?_, fun h => ?_, fun h => ?_⟩, fun s ch ticks hticks hpos hle he => ?_⟩
  · cases ch <;> rfl
  · rfl
  · exact done_eq_self (pulseTick_of_stopped h)
  · exact done_eq_next (pulseTick_of_running h)
  · have hp : getPulse ch (pulseStart ch s.blk) = pulseAfter ticks 0 := by
      rw [hticks]
      cases ch <;> rfl
    have hirq : (pulseStart ch s.blk).irq = s.blk.irq := setPulse_irq _ _ _
    have hrun := fun n hn => execAll_plsTick (s := s.mapBlk (pulseStart ch)) hp hle (hirq ▸ he) (n := n) hn hpos
    refine ⟨_, exec_plsStart ch s, fun n hn => ?_, ?_⟩
    · refine ⟨_, hrun n hn.le, ?_, ?_⟩
      · rw [mapBlk_blk, getPulse_withPulse]
        rfl
      · rw [mapBlk_blk, withPulse_irq, if_neg hn.ne, mapBlk_blk, hirq]
    · refine ⟨_, _, hrun ticks le_rfl, ?_, ?_, exec_plsMatch ch _, ?_, ?_⟩
      · rw [mapBlk_blk, getPulse_withPulse]
        rfl
      · rw [mapBlk_blk, withPulse_irq, if_pos rfl, mapBlk_blk, hirq]
      · rw [mapBlk_blk, pulseMatch_eq, getPulse_withPulse]
      · rw [mapBlk_blk, pulseMatch_eq, getPulse_withPulse]

/-! ## ACT.UPDATE -/

theorem exec_actSteer (angle : F32) (s : State) : exec (.actSteer angle) s = complete (steerTo s.blk.cfg angle) s := rfl

theorem exec_actUpdate (s : State) : exec .actUpdate s = perform (actUpdateProg s.blk.cfg) s := rfl

/-- A command of the table names a class with a width, so its drive operation is there, runs, and keeps the configuration (R246). -/
theorem driveOf_eq_some {c : Config} {cmd : DriveCmd} (hfwd : c.fwdUs.length = c.nClasses) (hrev : c.revUs.length = c.nClasses)
    (hok : c.okDrive cmd = true) : ∃ p, driveOf c cmd = some p ∧ p.Steady c := by
  cases cmd with
  | stop => exact ⟨_, rfl, steady_driveStop c⟩
  | fwd k =>
    have hk : k < c.nClasses := of_decide_eq_true hok
    refine ⟨driveForward c.fwdUs[k], ?_, steady_driveForward _⟩
    rw [driveOf, fwdWidth, if_pos hk, List.getElem?_eq_getElem (by omega), Option.map_some]
  | rev k =>
    have hk : k < c.nClasses := of_decide_eq_true hok
    refine ⟨driveReverse c c.revUs[k], ?_, steady_driveReverse c _⟩
    rw [driveOf, revWidth, if_pos hk, List.getElem?_eq_getElem (by omega), Option.map_some]

/-- The instruction a command dispatches to performs the same drive operation (R246, R262). -/
theorem exec_driveInstr {s : State} {cmd : DriveCmd} {p : Prog Unit} (hn : s.blk.cfg.nClasses ≤ 256)
    (h : driveOf s.blk.cfg cmd = some p) : exec (driveInstr cmd) s = complete p s := by
  have hclass : ∀ {k : Nat} {us : U16} {f : Nat → Option U16}, (∀ k, f k ≠ none → k < s.blk.cfg.nClasses) → f k = some us →
      f (BitVec.ofNat 8 k).toNat = some us := by
    intro k us f hf hus
    have hk := hf k (by simp [hus])
    rwa [BitVec.toNat_ofNat, Nat.mod_eq_of_lt (by omega)]
  cases cmd with
  | stop =>
    obtain rfl := Option.some.inj h
    rfl
  | fwd k =>
    obtain ⟨us, hus, rfl⟩ := Option.map_eq_some_iff.mp h
    exact exec_actFwd_of_width (hclass (f := fwdWidth s.blk.cfg) (fun k hk => by by_contra hc; simp [fwdWidth, hc] at hk) hus)
  | rev k =>
    obtain ⟨us, hus, rfl⟩ := Option.map_eq_some_iff.mp h
    exact exec_actRev_of_width (hclass (f := revWidth s.blk.cfg) (fun k hk => by by_contra hc; simp [revWidth, hc] at hk) hus)

/-- The steering width written (R255). -/
def steered (angle : F32) (b : Block) : Block :=
  { b with record := { b.record with steerUs := steerWidth b.cfg (clampAngle b.cfg angle) } }

/-- What `ACT.UPDATE` comes to with a waypoint whose command has its drive operation. -/
theorem attempt_actUpdateProg {b : Block} {w : Waypoint} {p : Prog Unit} (hw : waypointAt b.cfg b.record.wpIndex.toNat = some w)
    (hp : driveOf b.cfg w.throttle = some p) (ht : p.Total) :
    (actUpdateProg b.cfg).attempt b = .ok ((), setPhase 7#4 (pulseStart .throttle (pulseStart .steering
      (p.run (steered b.record.wpAngle b)).2))) := by
  have hdrive : (withWaypoint b.cfg (driveWaypoint b.cfg)).attempt (steered b.record.wpAngle b)
      = .ok (p.run (steered b.record.wpAngle b)) := by
    rw [attempt_withWaypoint (b := steered b.record.wpAngle b) _ hw, driveWaypoint, hp]
    exact ht.attempt _
  rw [steered] at hdrive ⊢
  simp only [actUpdateProg, Prog.attempt_bind, Prog.attempt_andThen, (total_readReg _).attempt, run_readReg, wpAngleReg_get, Except.bind,
    attempt_steerTo, hdrive, Prog.attempt_act, (total_endPhase _).attempt, run_endPhase]

/-- Settles O50: each part is one of the operations, and the phase is written last. -/
theorem actUpdateIsItsParts : Obligations.ActUpdateIsItsParts := by
  unfold Obligations.ActUpdateIsItsParts
  intro s w hw hn hfwd hrev hok
  obtain ⟨p, hp, hsteady⟩ := driveOf_eq_some hfwd hrev hok
  have hsteer : exec (.actSteer s.blk.record.wpAngle) s = .next (s.mapBlk (steered s.blk.record.wpAngle)) :=
    done_eq_next (congrArg Prod.snd (run_steerTo _ _ _))
  have hdrive := exec_driveInstr (s := s.mapBlk (steered s.blk.record.wpAngle)) (cmd := w.throttle) hn hp
  refine ⟨(s.mapBlk fun b => (p.run (steered s.blk.record.wpAngle b)).2).mapBlk fun b => pulseStart .throttle (pulseStart .steering b), ?_, ?_⟩
  · rw [execAll_cons_of_next hsteer, execAll_cons_of_next hdrive]
    rfl
  · rw [exec_actUpdate, perform_eq_next (attempt_actUpdateProg hw hp hsteady.total)]
    rfl

/-! ## ACT.STARTUP -/

/-- The first line of `ACT.STARTUP` as one change. -/
def startupNeutralled (b : Block) : Block :=
  { b with record := { b.record with throttleUs := b.cfg.neutralUs, steerUs := b.cfg.steerCenterUs }
           act := { drive := .neutral, hold := 0#8 } }

/-- A pulse of the start-up run as one change: counter and flag cleared, both channels started. -/
def startupPulsed (b : Block) : Block :=
  { b with
    sch := { count := 0, overrun := false }
    steer := { out := true, ocr := BitVec.ofNat 16 (b.record.steerUs.toNat * b.cfg.ticksPerUs), cnt := 0#16, run := true }
    throttle := { out := true, ocr := BitVec.ofNat 16 (b.record.throttleUs.toNat * b.cfg.ticksPerUs), cnt := 0#16, run := true } }

theorem run_startupNeutral (b : Block) : (startupNeutral b.cfg).run b = ((), startupNeutralled b) := by
  simp [startupNeutral, startupNeutralled, setDrive]

/-- The counter of an accepted configuration has a bit (R357 (c)). -/
theorem schedBits_pos_of_ok {c : Config} (h : c.ok = true) : 0 < c.schedBits := by
  simp only [Config.ok, Config.okTicks, Bool.and_eq_true, decide_eq_true_eq] at h
  refine Nat.pos_of_ne_zero fun h0 => ?_
  simp only [h0, pow_zero] at h
  omega

theorem run_startupPulse {c : Config} (h : 0 < c.schedBits) (b : Block) : (startupPulse c).run b = ((), startupPulsed b) := by
  simp only [startupPulse, Prog.run_andThen, Prog.run_act, run_write_sCountReg h]
  rfl

theorem exec_actStartup (s : State) :
    exec .actStartup s = .next { s.mapBlk (fun b => ((actStartupProg b.cfg).run b).2) with task := (firstWait s.blk.cfg).or s.task } := rfl

/-- The block after `ACT.STARTUP` up to its first wait. -/
theorem run_actStartupProg_of_none {b : Block} (h : b.cfg.startupPulses = 0) :
    (actStartupProg b.cfg).run b = ((), startupNeutralled b) := by
  simp only [actStartupProg, h, Prog.run_andThen, run_startupNeutral, Prog.run_ret]

theorem run_actStartupProg_of_pulse {b : Block} {n : Nat} (hok : b.cfg.ok = true) (h : b.cfg.startupPulses = n + 1) :
    (actStartupProg b.cfg).run b = ((), startupPulsed (startupNeutralled b)) := by
  simp only [actStartupProg, h, Prog.run_andThen, run_startupNeutral, run_startupPulse (schedBits_pos_of_ok hok)]

theorem mainStep_startup {s : State} {left : Nat} (h : s.task = some (.startup left)) : mainStep s = .next (startupWait left s) := by
  rw [mainStep, h]

/-- The wait is over when a cycle period has passed or the counter has wrapped (R264). -/
theorem startupReady_iff (b : Block) : startupReady b = true ↔ b.cfg.cycleTicks ≤ b.sch.count ∨ b.sch.overrun = true := by
  simp [startupReady]

theorem startupWait_of_not_ready {s : State} (left : Nat) (h : startupReady s.blk = false) : startupWait left s = s := by
  simp [startupWait, h]

theorem startupWait_zero {s : State} (h : startupReady s.blk = true) : startupWait 0 s = { s with task := none } := by
  simp [startupWait, h]

theorem startupWait_succ {s : State} (n : Nat) (h : startupReady s.blk = true) :
    startupWait (n + 1) s = { s with task := some (.op (.startupPulse n) []) } := by
  simp [startupWait, h]

/-- An operation has something left to do where its first part has a micro-step to make. -/
theorem Prog.isDone_andThen_of_not_isDone {p : Prog α} (q : Prog β) (h : p.isDone = false) : (p.andThen q).isDone = false := by
  induction p with
  | ret a => exact absurd h (by simp [Prog.isDone])
  | micro f k => rfl
  | need why k ih => exact ih h

theorem isDone_writeReg {w : Nat} (hw : 0 < w) (r : Reg w) (v : BitVec w) : (writeReg r v).isDone = false := by
  obtain ⟨n, hn⟩ : ∃ n, byteCount w = n + 1 := ⟨byteCount w - 1, by unfold byteCount; omega⟩
  rw [writeReg, hn]
  rfl

/-- The micro-steps of a later pulse, with nothing in between. -/
theorem runTask_startupPulse {s : State} (hok : s.blk.cfg.ok = true) (m : Nat) :
    ∃ n, runTask n { s with task := some (.op (.startupPulse m) []) } = { s.mapBlk startupPulsed with task := some (.startup m) } := by
  have hbits := schedBits_pos_of_ok hok
  have hrem : remaining s.blk.cfg (.startupPulse m) [] = startupPulse s.blk.cfg := Prog.follow_nil _
  have hdone : (startupPulse s.blk.cfg).isDone = false := Prog.isDone_andThen_of_not_isDone _ (isDone_writeReg hbits _ _)
  have hattempt := (steady_startupPulse (c := s.blk.cfg) s.blk.cfg).total.attempt s.blk
  rw [run_startupPulse hbits] at hattempt
  rw [← hrem] at hattempt
  exact ⟨_, runTask_remaining (s := { s with task := some (.op (.startupPulse m) []) }) (path := []) rfl
    (by rw [taskAfter, hrem, hdone]; rfl) hattempt⟩

/-- Settles O51: the first line, then a pulse and its wait, then look after look. -/
theorem actStartupEmitsPulses : Obligations.ActStartupEmitsPulses := by
  unfold Obligations.ActStartupEmitsPulses
  refine fun s hok => ⟨fun h0 => ?_, fun n hn => ?_, fun left ht => ⟨fun hc ho => ?_, fun hready => ?_⟩⟩
  · simp only [exec_actStartup, State.mapBlk, run_actStartupProg_of_none h0, firstWait, h0]
    rfl
  · simp only [exec_actStartup, State.mapBlk, run_actStartupProg_of_pulse hok hn, firstWait, hn]
    rfl
  · have hwait : startupReady s.blk = false := by
      rw [Bool.eq_false_iff, ne_eq, startupReady_iff, ho, not_or]
      exact ⟨Nat.not_le.mpr hc, Bool.false_ne_true⟩
    rw [mainStep_startup ht, startupWait_of_not_ready left hwait]
  · rw [← startupReady_iff] at hready
    rw [mainStep_startup ht]
    refine ⟨fun h0 => ?_, fun m hm => ⟨?_, runTask_startupPulse hok m⟩⟩
    · rw [h0, startupWait_zero hready]
    · rw [hm, startupWait_succ m hready]

end Sys2Proof.Machine
end

section
/-!
SUPPORT. The handlers of pending events (`60_exceptions.md` rules R330 to R334) and the moves of the environment (rule R356).
-/

namespace Sys2Proof.Machine

/-! ## The registers a handler owns -/

/-- What the handler of an event does after the event is consumed (R330). -/
def react (e : Event) (b : Block) : Except Fault Block :=
  match e with
  | .rx v => if (rxClaim b).2 then rxArm v (rxClaim b).1 else .ok (rxClaim b).1
  | .tw st data => .ok (hdgEvent (twClass b.cfg.twCodes st) data b)
  | .qe => .ok (edgeDecode b.env.sample b)
  | .cm ch => .ok (setPulse ch { getPulse ch b with out := false, run := false } b)
  | .ovf => .ok { b with sch := { b.sch with overrun := true } }

theorem exec_handlerOf (e : Event) (s : State) : exec (handlerOf e s.blk) s = doneOrFault (react e (consumeEvent e s.blk)) s := by
  cases e <;> rfl

/-- The block `b0` with the registers that the handler of a source writes taken from `b`. -/
def graft (src : Source) (b0 b : Block) : Block :=
  match src with
  | .rx => { b0 with frm := b.frm, mem := b.mem }
  | .tw => { b0 with hdg := b.hdg, env := { b0.env with twIssued := b.env.twIssued } }
  | .qe => { b0 with enc := b.enc }
  | .cm ch => setPulse ch (getPulse ch b) b0
  | .ovf => { b0 with sch := b.sch }

/-- Two blocks agree in what handlers read and none writes: the configuration and the input levels. -/
structure Alike (b0 b : Block) : Prop where
  cfg : b0.cfg = b.cfg
  qa : b0.env.qa = b.env.qa
  qb : b0.env.qb = b.env.qb

theorem graft_self (src : Source) (b : Block) : graft src b b = b := by
  cases src with
  | cm ch => cases ch <;> rfl
  | _ => rfl

theorem alike_graft (src : Source) (b0 b : Block) : Alike (graft src b0 b) b0 := by
  cases src with
  | cm ch => cases ch <;> exact ⟨rfl, rfl, rfl⟩
  | _ => exact ⟨rfl, rfl, rfl⟩

theorem alike_consumeEvent {e e' : Event} {b0 b : Block} (h : Alike b0 b) : Alike (consumeEvent e b0) (consumeEvent e' b) :=
  ⟨h.cfg, h.qa, h.qb⟩

/-! ## A handler reads and writes its own registers -/

/-- An operation of the framer does on the framer's registers of another block what it does on its own. -/
def FramerLocal (f : Block → Except Fault Block) : Prop :=
  ∀ b0 b : Block, b0.cfg = b.cfg → f (graft .rx b0 b) = (f b).map (graft .rx b0)

theorem storeSlot_graft (i k : Nat) (v : Byte) : FramerLocal (storeSlot i k v) := by
  intro b0 b hc
  by_cases hin : i < b.cfg.nSlots ∧ k < b.cfg.sentenceCap <;> simp [storeSlot, graft, hc, hin, Except.map]

theorem rxAdvance_graft {b0 b : Block} (hc : b0.cfg = b.cfg) : rxAdvance (graft .rx b0 b) = graft .rx b0 (rxAdvance b) := by
  by_cases hw : b.cfg.sentenceCap - 2 < b.frm.w + 1 <;> simp [rxAdvance, graft, hc, hw]

theorem rxRestart_graft (b0 b : Block) : rxRestart (graft .rx b0 b) = graft .rx b0 (rxRestart b) := by
  by_cases hw : b.frm.w = 0 <;> simp [rxRestart, graft, hw]

theorem framerLocal_rxAppend (v : Byte) : FramerLocal (rxAppend v) := by
  intro b0 b hc
  have hcur : (graft .rx b0 b).frm = b.frm := rfl
  simp only [rxAppend, hcur]
  split
  · rfl
  · next i _ =>
    rw [storeSlot_graft i _ v b0 b hc]
    cases hs : storeSlot i b.frm.w v b with
    | error f => rfl
    | ok b1 => exact congrArg Except.ok (rxAdvance_graft (hc.trans (by rw [(storeSlot_ok hs).2.2])))

theorem framerLocal_rxComplete : FramerLocal rxComplete := by
  intro b0 b hc
  have hcur : (graft .rx b0 b).frm = b.frm := rfl
  simp only [rxComplete, hcur]
  split
  · rfl
  · next i _ =>
    rw [storeSlot_graft i _ _ b0 b hc]
    cases hs : storeSlot i b.frm.w terminator b with
    | error f => rfl
    | ok b1 =>
      simp only [Except.map, Except.bind]
      rw [storeSlot_graft i _ _ b0 b1 (hc.trans (by rw [(storeSlot_ok hs).2.2]))]
      cases storeSlot i (b.frm.w + 1) 0#8 b1 <;> rfl

theorem rxIgnores_graft {b0 b : Block} (hc : b0.cfg = b.cfg) : rxIgnores (graft .rx b0 b) = rxIgnores b := by
  rw [rxIgnores, rxIgnores, ← hc]
  rfl

theorem framerLocal_rxStartArm : FramerLocal rxStartArm := by
  intro b0 b hc
  simp only [rxStartArm, rxIgnores_graft hc, rxRestart_graft]
  split
  · rfl
  · exact framerLocal_rxAppend _ b0 _ (hc.trans (quiet_rxRestart b).cfg.symm)

theorem framerLocal_rxDataArm (v : Byte) : FramerLocal (rxDataArm v) := by
  intro b0 b hc
  simp only [rxDataArm, rxIgnores_graft hc]
  split
  · rfl
  · exact framerLocal_rxAppend v b0 b hc

theorem framerLocal_rxArm (v : Byte) : FramerLocal (rxArm v) := by
  unfold rxArm
  cases rxClass v with
  | start => exact framerLocal_rxStartArm
  | term => exact framerLocal_rxComplete
  | data => exact framerLocal_rxDataArm v

theorem rxClaim_graft (b0 b : Block) : rxClaim (graft .rx b0 b) = (graft .rx b0 (rxClaim b).1, (rxClaim b).2) := by
  simp only [rxClaim, graft]
  split
  · rfl
  · split <;> rfl

theorem rxClaim_cfg (b : Block) : (rxClaim b).1.cfg = b.cfg := (quiet_rxClaim b).cfg

theorem hdgEvent_graft (k : TwClass) (data : Byte) {b0 b : Block} (hc : b0.cfg = b.cfg) :
    hdgEvent k data (graft .tw b0 b) = graft .tw b0 (hdgEvent k data b) := by
  cases k with
  | other => simp only [hdgEvent, hdgAbort, graft, issueTw, hc]
  | _ =>
    simp only [hdgEvent, hdgOnStart, hdgOnRepStart, hdgOnSlawAck, hdgOnTxdataAck, hdgOnSlarAck, hdgOnRxdataAck, hdgOnRxdataNack,
      hdgAbort, hdgGo, graft, issueTw, hc]
    split <;> rfl

theorem edgeDecode_graft (q : BitVec 2) {b0 b : Block} (hc : b0.cfg = b.cfg) :
    edgeDecode q (graft .qe b0 b) = graft .qe b0 (edgeDecode q b) := by
  simp only [edgeDecode, edgeCount, edgeError, graft, hc]
  split
  · rfl
  · split <;> rfl

/-- A handler does on its own registers in another block what it does in its own, and nothing else. -/
theorem react_graft (e : Event) {b0 b : Block} (h : Alike b0 b) :
    react e (graft (sourceOf e) b0 b) = (react e b).map (graft (sourceOf e) b0) := by
  cases e with
  | rx v =>
    simp only [react, sourceOf, rxClaim_graft]
    split
    · exact framerLocal_rxArm v b0 _ (h.cfg.trans (rxClaim_cfg b).symm)
    · rfl
  | tw st data =>
    have hcfg : (graft .tw b0 b).cfg = b.cfg := h.cfg
    simp only [react, sourceOf, hcfg, hdgEvent_graft _ data h.cfg]
    rfl
  | qe =>
    have hsample : (graft .qe b0 b).env.sample = b.env.sample := by
      rw [Environment.sample, Environment.sample, ← h.qa, ← h.qb]
      rfl
    simp only [react, sourceOf, hsample, edgeDecode_graft _ h.cfg]
    rfl
  | cm ch => cases ch <;> rfl
  | ovf => rfl

/-- So a handler changes its own registers alone. -/
theorem react_frame {e : Event} {b b' : Block} (h : react e b = .ok b') : b' = graft (sourceOf e) b b' := by
  have hsame := react_graft e (⟨rfl, rfl, rfl⟩ : Alike b b)
  rw [graft_self, h] at hsame
  exact Except.ok.inj hsame

/-! ## Two handlers -/

/-- The registers of one source are not those of another, and events are consumed in either order. -/
theorem graft_consumeEvent_comm {src₁ src₂ : Source} (hne : src₁ ≠ src₂) (e₁ e₂ : Event) (b b₁ b₂ : Block) :
    graft src₂ (consumeEvent e₂ (graft src₁ (consumeEvent e₁ b) b₁)) b₂
      = graft src₁ (consumeEvent e₁ (graft src₂ (consumeEvent e₂ b) b₂)) b₁ := by
  have hcomm : (b.irq.pending.erase e₁).erase e₂ = (b.irq.pending.erase e₂).erase e₁ := List.erase_comm e₁ e₂
  cases src₁ with
  | cm ch₁ =>
    cases src₂ with
    | cm ch₂ => cases ch₁ <;> cases ch₂ <;> first | exact absurd rfl hne | simp only [graft, consumeEvent, setPulse, hcomm]
    | _ => cases ch₁ <;> simp only [graft, consumeEvent, setPulse, hcomm]
  | _ =>
    cases src₂ with
    | cm ch₂ => cases ch₂ <;> simp only [graft, consumeEvent, setPulse, hcomm]
    | _ => first | exact absurd rfl hne | simp only [graft, consumeEvent, hcomm]

/-- After the handler of one source, the registers of another are as they were. -/
theorem graft_consumeEvent_other {src₁ src₂ : Source} (hne : src₁ ≠ src₂) (e₁ e₂ : Event) (b b₁ : Block) :
    graft src₂ (consumeEvent e₂ (graft src₁ (consumeEvent e₁ b) b₁)) (consumeEvent e₂ b)
      = consumeEvent e₂ (graft src₁ (consumeEvent e₁ b) b₁) := by
  cases src₁ with
  | cm ch₁ =>
    cases src₂ with
    | cm ch₂ => cases ch₁ <;> cases ch₂ <;> first | exact absurd rfl hne | rfl
    | _ => cases ch₁ <;> rfl
  | _ =>
    cases src₂ with
    | cm ch₂ => cases ch₂ <;> rfl
    | _ => first | exact absurd rfl hne | rfl

/-- The second of two handlers of different sources, after the first. -/
theorem react_after {e₁ e₂ : Event} (hne : sourceOf e₁ ≠ sourceOf e₂) {b b₁ b₂ : Block} (h₁ : react e₁ (consumeEvent e₁ b) = .ok b₁)
    (h₂ : react e₂ (consumeEvent e₂ b) = .ok b₂) :
    react e₂ (consumeEvent e₂ b₁)
      = .ok (graft (sourceOf e₂) (consumeEvent e₂ (graft (sourceOf e₁) (consumeEvent e₁ b) b₁)) b₂) := by
  have halike : Alike (consumeEvent e₂ (graft (sourceOf e₁) (consumeEvent e₁ b) b₁)) (consumeEvent e₂ b) := by
    obtain ⟨hcfg, hqa, hqb⟩ := alike_graft (sourceOf e₁) (consumeEvent e₁ b) b₁
    exact ⟨hcfg, hqa, hqb⟩
  have hreact := react_graft e₂ halike
  rw [h₂, graft_consumeEvent_other hne] at hreact
  rw [← react_frame h₁] at hreact ⊢
  exact hreact

/-- Settles O7: each handler reads and writes the registers of its own source. -/
theorem handlersCommute : Obligations.HandlersCommute := by
  unfold Obligations.HandlersCommute
  intro s t₁ t₂ e₁ e₂ hne ht₁ ht₂
  rw [exec_handlerOf] at ht₁ ht₂
  obtain ⟨b₁, h₁, rfl⟩ := doneOrFault_next ht₁
  obtain ⟨b₂, h₂, rfl⟩ := doneOrFault_next ht₂
  refine ⟨{ s with blk := graft (sourceOf e₂) (consumeEvent e₂ (graft (sourceOf e₁) (consumeEvent e₁ s.blk) b₁)) b₂ }, ?_, ?_⟩
  · rw [exec_handlerOf, react_after hne h₁ h₂]
    rfl
  · rw [exec_handlerOf, react_after hne.symm h₂ h₁, graft_consumeEvent_comm hne]
    rfl

/-! ## A handler step -/

/-- Under an accepted configuration an input that stands first in the script is applied. -/
theorem step_arrival {s : State} {a : Arrival} {script : List Input} (hcfg : s.blk.cfg.ok = true) (hs : s.script = .arrival a :: script) :
    step s = applyArrival a { s with script := script } := by
  rw [step, if_pos hcfg, stepConfigured, hs]

theorem handlerStep_of_pending {s : State} {k : Nat} {e : Event} (h : s.blk.irq.pending[k]? = some e) :
    handlerStep k s = exec (handlerOf e s.blk) s := by
  rw [handlerStep, h]

/-- No source owns the phase or the record. -/
theorem graft_keeps (src : Source) (b0 b : Block) : (graft src b0 b).phase = b0.phase ∧ (graft src b0 b).record = b0.record := by
  cases src with
  | cm ch => cases ch <;> exact ⟨rfl, rfl⟩
  | _ => exact ⟨rfl, rfl⟩

/-- Settles O6: the step is the handler's operation, which changes the registers of its source alone. -/
theorem handlerStepRunsItsOperation : Obligations.HandlerStepRunsItsOperation := by
  unfold Obligations.HandlerStepRunsItsOperation
  intro s k e script hcfg hs he
  have hstep : step s = exec (handlerOf e s.blk) { s with script := script } := by
    rw [step_arrival hcfg hs]
    exact handlerStep_of_pending (s := { s with script := script }) he
  refine ⟨by rw [hstep]; cases e <;> rfl, fun t ht => ?_⟩
  rw [hstep, exec_handlerOf e { s with script := script }] at ht
  obtain ⟨b, hb, rfl⟩ := doneOrFault_next ht
  obtain ⟨hphase, hrecord⟩ := graft_keeps (sourceOf e) (consumeEvent e s.blk) b
  rw [← react_frame hb] at hphase hrecord
  exact ⟨rfl, rfl, hphase, hrecord⟩

/-! ## The environment -/

theorem applyQuad_of_same {ab : BitVec 2} {b : Block} (h : ab = b.env.sample) : applyQuad ab b = b := by
  have ha : ab.getLsbD 1 = b.env.qa := by
    rw [h, Environment.sample]
    cases b.env.qa <;> cases b.env.qb <;> rfl
  have hb : ab.getLsbD 0 = b.env.qb := by
    rw [h, Environment.sample]
    cases b.env.qa <;> cases b.env.qb <;> rfl
  rw [applyQuad, if_pos h, ha, hb]

/-- Settles O13: an event raised goes to the end of the pending ones, or is dropped while the sources are disabled. -/
theorem environmentMoves : Obligations.EnvironmentMoves := by
  unfold Obligations.EnvironmentMoves
  intro s script v st data ab ch level hcfg
  have hmove : ∀ {a : Arrival} {f g : Block → Block},
      (∀ s : State, applyArrival a s = .next (s.mapBlk g)) → g s.blk = f s.blk →
      s.script = .arrival a :: script → step s = .next { s.mapBlk f with script := script } := fun ha hfg hs => by
    rw [step_arrival hcfg hs, ha, State.mapBlk, hfg]
    rfl
  refine ⟨fun he => ⟨?_, ?_, fun hne => ?_⟩, fun hd => ⟨?_, ?_, ?_⟩, fun hsame => ?_, ?_, fun hs => ?_, fun hs => ?_⟩
  · exact hmove (fun _ => rfl) (raiseEvent_of_enabled _ he)
  · exact hmove (fun _ => rfl) (raiseEvent_of_enabled _ he)
  · exact hmove (g := applyQuad ab) (fun _ => rfl) ((if_neg hne).trans (raiseEvent_of_enabled _ he))
  · exact hmove (fun _ => rfl) (raiseEvent_of_disabled _ hd)
  · exact hmove (fun _ => rfl) (raiseEvent_of_disabled _ hd)
  · refine hmove (g := applyQuad ab) (fun _ => rfl) ?_
    by_cases hsame : ab = s.blk.env.sample
    · exact if_pos hsame
    · exact (if_neg hsame).trans (raiseEvent_of_disabled _ hd)
  · exact hmove (g := applyQuad ab) (fun _ => rfl) (applyQuad_of_same hsame)
  · exact hmove (fun _ => rfl) rfl
  · exact step_arrival hcfg hs
  · exact step_arrival hcfg hs

end Sys2Proof.Machine
end

section
/-!
SUPPORT. The boot sequence (`70_reset_and_hazards.md` rules R351 and R353).
-/

namespace Sys2Proof.Machine

/-! ## Operations of the boot sequence -/

theorem mainStep_boot {s : State} (ht : s.task = none) : mainStep s = bootStep s := by
  rw [mainStep, ht]

/-- A program that can be attempted is not blocked at its first micro-step. -/
theorem Prog.blocked_of_attempt {p : Prog α} {b : Block} {r : α × Block} (h : p.attempt b = .ok r) : p.blocked b = none := by
  induction p with
  | ret a => rfl
  | micro f k => rfl
  | need why k ih =>
    cases hw : why b with
    | none =>
      rw [Prog.blocked, hw]
      exact ih (by rwa [Prog.attempt_need_none k hw] at h)
    | some e => simp [Prog.attempt_need_some k hw] at h

theorem microStep_of_attempt {which : LoopOp} {s : State} {r : Unit × Block} (h : (loopProg s.blk.cfg which).attempt s.blk = .ok r) :
    microStep which [] s = .next (advance which [] s) := by
  rw [microStep, remaining, Prog.follow_nil, Prog.blocked_of_attempt h]

/-- The place of the boot sequence does not matter to a micro-step. -/
theorem advance_boot (which : LoopOp) (path : List Nat) (s : State) (boot : Boot) :
    advance which path { s with boot := boot } = { advance which path s with boot := boot } := by
  cases h : (remaining s.blk.cfg which path).first s.blk with
  | none => rw [advance_of_first_none h, advance_of_first_none (s := { s with boot := boot }) h]
  | some x => rw [advance_of_first h, advance_of_first (s := { s with boot := boot }) h]

/-- An operation of the boot sequence: the step begins it and passes to the next place, and the other micro-steps, with nothing in
between, complete it. -/
theorem boot_operation {which : LoopOp} {s : State} {r : Unit × Block} {boot : Boot} (ht : s.task = none)
    (hboot : bootStep s = thenBoot boot (microStep which [] s)) (ha : (loopProg s.blk.cfg which).attempt s.blk = .ok r) :
    ∃ n, mainStep s = .next { advance which [] s with boot := boot }
      ∧ runTask n { advance which [] s with boot := boot }
        = { s with blk := r.2, boot := boot, task := nextTask s.blk.cfg which } := by
  obtain ⟨n, hn⟩ := runTask_advance (s := { s with boot := boot }) ha
  rw [advance_boot] at hn
  exact ⟨n, by rw [mainStep_boot ht, hboot, microStep_of_attempt ha, thenBoot], hn⟩

theorem exec_stoInit (s : State) : exec .stoInit s = complete (stoInitProg s.blk.cfg) s := rfl

/-- Settles O10: each place of the boot sequence, the operations by their micro-steps. -/
theorem bootSequenceInOrder : Obligations.BootSequenceInOrder := by
  unfold Obligations.BootSequenceInOrder
  intro s ht
  have hplace : ∀ {boot : Boot}, s.boot = boot → mainStep s = bootStep { s with boot := boot } := by
    rintro _ rfl
    exact mainStep_boot ht
  have hoperation : ∀ {which : LoopOp} {i : Instr} {now later : Boot} {t : State}, s.boot = now → loopInstr which = some i →
      (s.boot = now → bootStep s = thenBoot later (microStep which [] s)) → exec i s = .next t →
      ∃ n, mainStep s = .next { advance which [] s with boot := later }
        ∧ runTask n { advance which [] s with boot := later } = { t with boot := later, task := nextTask s.blk.cfg which } := by
    intro which i now later t hb hi hboot hexec
    obtain ⟨r, ha, htr⟩ := exec_loopInstr hi hexec
    rw [htr]
    exact boot_operation ht (hboot hb) ha
  refine ⟨fun hb => ?_, fun hb => ?_, fun hb => ?_, fun hb => ?_, fun hb => ?_, fun hb hs hbusy => ?_, fun hb hbad => ?_, fun hb => ?_⟩
  · exact hplace hb
  · exact hplace hb
  · exact hplace hb
  · obtain ⟨n, hmain, hrun⟩ := hoperation hb (which := .actStartup) rfl (fun hb => by rw [bootStep, hb]) (exec_actStartup s)
    refine ⟨_, n, exec_actStartup s, hmain, hrun.trans ?_⟩
    rw [ht, Option.or_none]
    rfl
  · obtain ⟨n, hmain, hrun⟩ := hoperation hb (which := .stoInit) rfl (fun hb => by rw [bootStep, hb]) (exec_stoInit s)
    exact ⟨_, n, exec_stoInit s, hmain, hrun⟩
  · have hexec := (exec_hdgBegin s).trans (perform_eq_next (attempt_hdgBeginProg_of_idle hs hbusy))
    obtain ⟨n, hmain, hrun⟩ := hoperation hb (which := .hdgBegin) rfl (fun hb => by rw [bootStep, hb]) hexec
    exact ⟨_, n, hexec, hmain, hrun⟩
  · have hblocked : (remaining s.blk.cfg .hdgBegin []).blocked s.blk = some (.refusal .headingContract) := by
      rw [remaining, Prog.follow_nil, loopProg, hdgBeginProg, Prog.andThen, Prog.require, Prog.bind, Prog.blocked,
        beginContract_of_violated hbad]
    rw [mainStep_boot ht, bootStep, hb]
    simp only [microStep, hblocked, thenBoot, Stop.outcome]
  · exact hplace hb

end Sys2Proof.Machine
end

section
/-!
SUPPORT. What the operations of the storage logger leave unchanged (`48_storage.md` rule R328): a property of the block that the
registers, the returned value and the bus of the storage do not touch is kept by every one of their micro-steps.
-/

namespace Sys2Proof.Machine

/-! ## Programs of exchanges alone -/

theorem keeps_sendRecord {P : Block → Prop} (h : ∀ v b, P b → P (spiXchg v b).1) (n i : Nat) : (sendRecord n i).Keeps P := by
  induction n generalizing i with
  | zero => exact .ret _
  | succ n ih => exact Prog.Keeps.andThen (p := .micro _ _) ⟨fun b => h _ b, fun _ => .ret _⟩ (ih _)

theorem keeps_busyPoll {P : Block → Prop} (h : ∀ v b, P b → P (spiXchg v b).1) (c : Config) (n : Nat) : (busyPoll c n).Keeps P := by
  induction n with
  | zero => exact .ret _
  | succ n ih =>
    refine (keeps_xchg h _).bind fun r => ?_
    split
    · exact ih
    · exact .ret _

theorem keeps_writeData {P : Block → Prop} (h : ∀ v b, P b → P (spiXchg v b).1) (c : Config) : (writeData c).Keeps P := by
  refine (keeps_sendBytes h _).andThen <| (keeps_sendRecord h _ _).andThen <|
    (keeps_sendBytes h _).andThen <| (keeps_xchg h _).bind fun r => ?_
  split
  · exact keeps_busyPoll h c _
  · exact .ret _

/-! ## Block reads and the search -/

/-- A property of the block that no micro-step of a block read or of the search breaks. -/
structure SearchClosed (P : Block → Prop) : Prop where
  xchg : ∀ v b, P b → P (spiXchg v b).1 := by exact fun _ _ h => h
  cs : ∀ v b, P b → P (setCs v b) := by exact fun _ _ h => h
  disable : ∀ b, P b → P (setEnabled false b) := by exact fun _ h => h
  leadByte : ∀ i v b, P b → P (setLeadByte i v b) := by exact fun _ _ _ h => h
  forgetLead : ∀ b, P b → P (Machine.forgetLead b) := by exact fun _ h => h

namespace SearchClosed

variable {P : Block → Prop} (hP : SearchClosed P) (c : Config)

theorem keeps_bisect {probe : Nat → Prog (Option Bool)} (h : ∀ a, (probe a).Keeps P) (fuel lo hi : Nat) :
    (bisect probe fuel lo hi).Keeps P := by
  induction fuel generalizing lo hi with
  | zero => exact .ret _
  | succ fuel ih =>
    unfold bisect
    split
    · refine (h _).bind fun r => ?_
      match r with
      | none => exact .ret _
      | some true => exact ih _ _
      | some false => exact ih _ _
    · exact .ret _

theorem keeps_searchWith {probe : Nat → Prog (Option Bool)} (h : ∀ a, (probe a).Keeps P) (cap : Nat) :
    (searchWith probe cap).Keeps P := by
  refine (h 0).bind fun r => ?_
  match r with
  | none => exact .ret _
  | some false => exact .ret _
  | some true =>
    refine (keeps_bisect h _ _ _).bind fun k => ?_
    cases k <;> exact .ret _

include hP

theorem keeps_command (f : CmdFrame) : (command c f).Keeps P := Machine.keeps_command hP.xchg (hP.cs true) c f

theorem keeps_keepLead (i : Nat) (v : Byte) : (keepLead i v).Keeps P := by
  unfold keepLead
  split
  · exact .act (hP.leadByte i v)
  · exact .ret _

theorem keeps_readBlock (addr : U32) : (readBlock c addr).Keeps P :=
  (hP.keeps_command c _).bind fun _ => keeps_readBlockData hP.xchg (hP.cs false) c hP.keeps_keepLead hP.forgetLead _ _

theorem keeps_probeBlock (a : Nat) : (probeBlock c a).Keeps P := by
  refine (hP.keeps_readBlock c _).bind fun ok => ?_
  split
  · exact (Prog.Keeps.askBytes _ _ _).bind fun _ => .ret _
  · exact .ret _

theorem keeps_findBlock : (findBlock c).Keeps P := by
  refine (keeps_readReg _).bind fun cap => (keeps_searchWith (hP.keeps_probeBlock c) _).bind fun k => ?_
  cases k with
  | none => exact .andThen (.act hP.disable) (.ret _)
  | some k => exact .ret _

end SearchClosed

/-! ## The steps of `STO.INIT` -/

/-- A step of the initialization that waits for the device, and `next` after it (R289). -/
def stepProg (c : Config) (step : InitStep) (next : Prog Unit) : Prog Unit :=
  match step with
  | .reset => orFail ((commandAlone c frameReset).bind fun r => .ret (decide (r = some c.answers.idle))) next
  | .ifcond => orFail (cmdIfcond c) next
  | .opcond => orFail (opcondLoop c c.opcondRetryMax) next
  | .readocr => orFail ((cmdReadocr c).bind fun o => .ret (blockAddressed o)) next
  | .readcsd => (Prog.act (setFast true)).andThen (orFail (cmdReadcsd c) next)
  | .find => setCapacity.andThen <| (findBlock c).bind fun k =>
    match k with
    | some k => startLogging k
    | none => deselect

/-- Steps one after the other. -/
def stepsProg (c : Config) : List InitStep → Prog Unit
  | [] => .ret ()
  | step :: steps => stepProg c step (stepsProg c steps)

theorem stoInitProg_eq (c : Config) :
    stoInitProg c = (Prog.act (setEnabled false)).andThen ((Prog.act (setFast false)).andThen (stepsProg c initSteps)) := rfl

/-! ## The other operations -/

/-- A property of the block that no micro-step of the storage logger breaks, but for the enable at the end of `STO.INIT` and the
phase of `STO.WRITE`. -/
structure StorageClosed (P : Block → Prop) : Prop extends SearchClosed P where
  fast : ∀ v b, P b → P (setFast v b) := by exact fun _ _ h => h
  csdByte : ∀ i v b, P b → P (setCsdByte i v b) := by exact fun _ _ _ h => h
  forgetCsd : ∀ b, P b → P (Machine.forgetCsd b) := by exact fun _ h => h
  capacity : ∀ v b, P b → P (capacityReg.set v b) := by exact fun _ _ h => h
  nextBlock : ∀ v b, P b → P (nextBlockReg.set v b) := by exact fun _ _ h => h
  ret : ∀ r b, P b → P (setRet r b) := by exact fun _ _ h => h

namespace StorageClosed

variable {P : Block → Prop} (hP : StorageClosed P) (c : Config)
include hP

theorem keeps_deselectWith (a : α) : (deselect.andThen (.ret a)).Keeps P := .andThen (.act (hP.cs false)) (.ret a)

theorem keeps_commandAlone (f : CmdFrame) : (commandAlone c f).Keeps P :=
  (hP.keeps_command c f).bind fun _ => hP.keeps_deselectWith _

theorem keeps_cmdIfcond : (cmdIfcond c).Keeps P := by
  refine (hP.keeps_command c _).bind fun r => ?_
  split
  · exact (keeps_recvBytes hP.xchg _ _).bind fun _ => hP.keeps_deselectWith _
  · exact hP.keeps_deselectWith _

theorem keeps_cmdReadocr : (cmdReadocr c).Keeps P := by
  refine (hP.keeps_command c _).bind fun r => ?_
  split
  · exact (keeps_recvBytes hP.xchg _ _).bind fun _ => hP.keeps_deselectWith _
  · exact hP.keeps_deselectWith _

theorem keeps_cmdReadcsd : (cmdReadcsd c).Keeps P :=
  (hP.keeps_command c _).bind fun _ =>
    keeps_readBlockData hP.xchg (hP.cs false) c (fun i v => .act (hP.csdByte i v)) hP.forgetCsd _ _

theorem keeps_opcondLoop (n : Nat) : (opcondLoop c n).Keeps P := by
  induction n with
  | zero => exact .ret _
  | succ n ih =>
    refine (hP.keeps_commandAlone c _).bind fun a => ?_
    split
    · refine (hP.keeps_commandAlone c _).bind fun r => ?_
      split
      · exact .ret _
      · split
        · exact ih
        · exact .ret _
    · exact .ret _

theorem keeps_orFail {step : Prog Bool} {next : Prog Unit} (hs : step.Keeps P) (hn : next.Keeps P) : (orFail step next).Keeps P := by
  refine hs.bind fun ok => ?_
  split
  · exact hn
  · exact .act (hP.cs false)

/-- The last step of `STO.INIT` enables the storage. -/
theorem keeps_stepProg (henable : ∀ b, P b → P (setEnabled true b)) (step : InitStep) {next : Prog Unit} (hn : next.Keeps P) :
    (stepProg c step next).Keeps P := by
  cases step with
  | reset => exact hP.keeps_orFail ((hP.keeps_commandAlone c _).bind fun _ => .ret _) hn
  | ifcond => exact hP.keeps_orFail (hP.keeps_cmdIfcond c) hn
  | opcond => exact hP.keeps_orFail (hP.keeps_opcondLoop c _) hn
  | readocr => exact hP.keeps_orFail ((hP.keeps_cmdReadocr c).bind fun _ => .ret _) hn
  | readcsd => exact .andThen (.act (hP.fast true)) (hP.keeps_orFail (hP.keeps_cmdReadcsd c) hn)
  | find =>
    refine .andThen ((Prog.Keeps.askBytes _ _ _).bind fun _ => keeps_writeReg hP.capacity _) <| (hP.keeps_findBlock c).bind fun k => ?_
    cases k with
    | none => exact .act (hP.cs false)
    | some k => exact .andThen (keeps_writeReg hP.nextBlock _) (.act henable)

theorem keeps_stepsProg (henable : ∀ b, P b → P (setEnabled true b)) (steps : List InitStep) : (stepsProg c steps).Keeps P := by
  induction steps with
  | nil => exact .ret _
  | cons step steps ih => exact hP.keeps_stepProg c henable step ih

theorem keeps_stoInitProg (henable : ∀ b, P b → P (setEnabled true b)) : (stoInitProg c).Keeps P :=
  .andThen (.act hP.disable) <| .andThen (.act (hP.fast false)) <| hP.keeps_stepsProg c henable initSteps

theorem keeps_writeRecord : (writeRecord c).Keeps P := by
  refine (keeps_readReg _).bind fun a => (hP.keeps_command c _).bind fun r => .bind ?_ fun ok => ?_
  · split
    · exact keeps_writeData hP.xchg c
    · exact .ret _
  · split
    · exact .andThen (.act (hP.cs false)) (keeps_modifyReg hP.nextBlock)
    · exact .andThen (.act hP.disable) (.act (hP.cs false))

/-- `STO.WRITE` ends with its phase. -/
theorem keeps_stoWriteProg (hphase : ∀ b, P b → P (setPhase 8#4 b)) : (stoWriteProg c).Keeps P := by
  refine (Prog.Keeps.ask _).bind fun enabled => .andThen ?_ (.act hphase)
  split
  · refine (keeps_readReg _).bind fun next => (keeps_readReg _).bind fun cap => ?_
    split
    · exact .act hP.disable
    · exact hP.keeps_writeRecord c
  · exact .ret _

theorem keeps_returning {p : Prog α} (h : p.Keeps P) (g : α → Result) : (p.bind fun a => returns (g a)).Keeps P :=
  h.bind fun _ => .act (hP.ret _)

end StorageClosed

/-- A storage operation that returns its value is a whole program. -/
theorem done_setRet_eq_complete (p : Config → Prog α) (g : α → Result) (s : State) :
    done (fun b => setRet (g ((p b.cfg).run b).1) ((p b.cfg).run b).2) s = complete ((p s.blk.cfg).bind fun a => returns (g a)) s := by
  simp only [complete, done, State.mapBlk, Prog.run_bind, run_returns]

/-- A program of an instruction of the storage logger, and what its micro-steps keep. -/
structure StorageProg (i : Instr) (s : State) (p : Prog Unit) : Prop where
  exec_eq : exec i s = complete p s
  keeps : ∀ P, StorageClosed P → (i = .stoInit → ∀ b, P b → P (setEnabled true b)) →
    (i = .stoWrite → ∀ b, P b → P (setPhase 8#4 b)) → p.Keeps P

theorem StorageProg.returning {i : Instr} {s : State} {p : Config → Prog α} {g : α → Result}
    (he : exec i s = done (fun b => setRet (g ((p b.cfg).run b).1) ((p b.cfg).run b).2) s)
    (hk : ∀ P, StorageClosed P → (p s.blk.cfg).Keeps P) : StorageProg i s ((p s.blk.cfg).bind fun a => returns (g a)) where
  exec_eq := he.trans (done_setRet_eq_complete p g s)
  keeps P hP _ _ := hP.keeps_returning (hk P hP) g

/-- Every instruction of the storage logger is a whole program of storage micro-steps. -/
theorem exists_storageProg {cmd : BitVec 6} {arg : U32} {trail : Byte} {i : Instr} (hi : i ∈ storageInstrs cmd arg trail) (s : State) :
    ∃ p, StorageProg i s p := by
  simp only [storageInstrs, List.mem_cons, List.not_mem_nil, or_false] at hi
  obtain rfl | rfl | rfl | rfl | rfl | rfl | rfl | rfl | rfl | rfl | rfl | rfl | rfl := hi
  · exact ⟨_, .returning (p := fun c => command c ⟨cmd, arg, trail⟩) (g := .answer) rfl fun P hP => hP.keeps_command _ _⟩
  · exact ⟨_, .returning (p := fun c => commandAlone c frameReset) (g := .answer) rfl fun P hP => hP.keeps_commandAlone _ _⟩
  · exact ⟨_, .returning (p := cmdIfcond) (g := .flag) rfl fun P hP => hP.keeps_cmdIfcond _⟩
  · exact ⟨_, .returning (p := fun c => commandAlone c frameApp) (g := .answer) rfl fun P hP => hP.keeps_commandAlone _ _⟩
  · exact ⟨_, .returning (p := fun c => commandAlone c frameOpcond) (g := .answer) rfl fun P hP => hP.keeps_commandAlone _ _⟩
  · exact ⟨_, .returning (p := cmdReadocr) (g := .word) rfl fun P hP => hP.keeps_cmdReadocr _⟩
  · exact ⟨_, .returning (p := cmdReadcsd) (g := .flag) rfl fun P hP => hP.keeps_cmdReadcsd _⟩
  · exact ⟨_, .returning (p := fun c => command c (frameReadblk arg)) (g := .answer) rfl fun P hP => hP.keeps_command _ _⟩
  · exact ⟨_, .returning (p := fun c => command c (frameWriteblk arg)) (g := .answer) rfl fun P hP => hP.keeps_command _ _⟩
  · exact ⟨_, rfl, fun P hP henable _ => hP.keeps_stoInitProg _ (henable rfl)⟩
  · exact ⟨_, .returning (p := findBlock) (g := fun k => .word (k.map (BitVec.ofNat 32))) rfl fun P hP => hP.keeps_findBlock _⟩
  · exact ⟨_, .returning (p := fun c => readBlock c arg) (g := .flag) rfl fun P hP => hP.keeps_readBlock _ _⟩
  · exact ⟨_, rfl, fun P hP _ hphase => hP.keeps_stoWriteProg _ (hphase rfl)⟩

/-! ## R328 -/

/-- Everything but the storage registers, the returned value, the counter of free values, the phase, the device and the bus. -/
def Block.besideStorage (b : Block) :=
  (b.cfg, b.record, b.sch, b.frm, b.hdg, b.enc, b.act, b.steer, b.throttle, b.irq, b.mem, b.env.qa, b.env.qb, b.env.runEn, b.env.twIssued)

theorem eq_of_besideStorage {b b0 : Block} (h : b.besideStorage = b0.besideStorage) :
    b = { b0 with sto := b.sto, ret := b.ret, fresh := b.fresh, phase := b.phase
                  env := { b0.env with device := b.env.device, spiSent := b.env.spiSent } } := by
  simp only [Block.besideStorage, Prod.mk.injEq] at h
  obtain ⟨hcfg, hrecord, hsch, hfrm, hhdg, henc, hact, hsteer, hthrottle, hirq, hmem, hqa, hqb, hrun, htw⟩ := h
  simp only [← hcfg, ← hrecord, ← hsch, ← hfrm, ← hhdg, ← henc, ← hact, ← hsteer, ← hthrottle, ← hirq, ← hmem, ← hqa, ← hqb, ← hrun, ← htw]

theorem storageClosed_besideStorage (b0 : Block) : StorageClosed fun b => b.besideStorage = b0.besideStorage where
  xchg _ _ h := h

/-- The phase after `STO.WRITE` is written by its last micro-step. -/
theorem phase_stoWriteProg (c : Config) (b : Block) : ((stoWriteProg c).run b).2.phase = 8#4 := by
  simp only [stoWriteProg, Prog.run_bind, Prog.run_andThen, run_endPhase, setPhase]

/-- Settles O54: each operation is a program of storage micro-steps, which keep everything besides the storage, the phase and the
disable. -/
theorem storageContained : Obligations.StorageContained := by
  unfold Obligations.StorageContained
  intro s cmd arg trail i hi
  obtain ⟨p, hp⟩ := exists_storageProg hi s
  have hbeside := hp.keeps _ (storageClosed_besideStorage s.blk) (fun _ _ h => h) (fun _ _ h => h)
  refine ⟨_, hp.exec_eq.trans (complete_next p s), congrArg (fun b => { s with blk := b }) (eq_of_besideStorage (hbeside.run rfl)), ?_,
    fun hinit => ?_⟩
  · split
    · next hw =>
      subst hw
      exact congrArg (fun t => t.blk.phase) (Host.Outcome.next.inj (hp.exec_eq.symm.trans rfl)) ▸ phase_stoWriteProg s.blk.cfg s.blk
    · next hw =>
      exact (hp.keeps (fun b => b.phase = s.blk.phase) { xchg := fun _ _ h => h } (fun _ _ h => h) fun h => absurd h hw).run rfl
  · exact (hp.keeps (fun b => b.sto.enabled = false) { xchg := fun _ _ h => h, disable := fun _ _ => rfl }
      (fun h => absurd h hinit) fun _ _ h => h).run

end Sys2Proof.Machine
end

section
/-!
SUPPORT. The agreement of drive state and pulse width (`47_actuation.md` rule R247): the operations outside the actuation leave
its registers alone, and the drive commands keep the agreement.
-/

namespace Sys2Proof.Machine

/-- The registers of which the agreement speaks. -/
def Block.driving (b : Block) := (b.cfg, b.record.throttleUs, b.act)

/-- Drive state and width agree (R247), with the hold in its range (R252). -/
structure DriveAgrees (b : Block) : Prop where
  forward : b.act.drive = .forward → b.cfg.neutralUs.toNat ≤ b.record.throttleUs.toNat
  neutral : b.act.drive = .neutral → b.record.throttleUs = b.cfg.neutralUs
  preReverse : b.act.drive = .preReverse → b.record.throttleUs = b.cfg.preReverseUs ∧ b.act.hold.toNat < b.cfg.preReverseHold
  hold : b.act.hold.toNat ≤ b.cfg.preReverseHold

theorem DriveAgrees.of_driving {b b' : Block} (h : DriveAgrees b) (heq : b'.driving = b.driving) : DriveAgrees b' := by
  simp only [Block.driving, Prod.mk.injEq] at heq
  obtain ⟨hcfg, hus, hact⟩ := heq
  exact ⟨hcfg ▸ hus ▸ hact ▸ h.forward, hcfg ▸ hus ▸ hact ▸ h.neutral, hcfg ▸ hus ▸ hact ▸ h.preReverse, hcfg ▸ hact ▸ h.hold⟩

/-! ## Operations outside the actuation -/

/-- The registers of the drive are as in a block `b0`. -/
def Undriven (b0 b : Block) : Prop := b.driving = b0.driving

section
variable {b0 : Block} (c : Config)

theorem undriven_act {f : Block → Block} (h : ∀ b, Undriven b0 b → Undriven b0 (f b) := by exact fun _ h => h) :
    (Prog.act f).Keeps (Undriven b0) := .act h

theorem undriven_writeReg {r : Reg w} {v : BitVec w} (h : ∀ x b, Undriven b0 b → Undriven b0 (r.set x b) := by exact fun _ _ h => h) :
    (writeReg r v).Keeps (Undriven b0) := keeps_writeReg h v

theorem undriven_modifyReg {r : Reg w} {f : BitVec w → BitVec w}
    (h : ∀ x b, Undriven b0 b → Undriven b0 (r.set x b) := by exact fun _ _ h => h) :
    (modifyReg r f).Keeps (Undriven b0) := keeps_modifyReg h

theorem undriven_copyReg {src dst : Reg w} (h : ∀ x b, Undriven b0 b → Undriven b0 (dst.set x b) := by exact fun _ _ h => h) :
    (copyReg src dst).Keeps (Undriven b0) := (keeps_readReg src).bind fun _ => keeps_writeReg h _

theorem undriven_parseGga (line : List Byte) : (parseGga c line).Keeps (Undriven b0) := by
  unfold parseGga
  split
  · exact .andThen undriven_writeReg <| .andThen undriven_writeReg <| .andThen undriven_writeReg <| .andThen undriven_writeReg <|
      .andThen undriven_writeReg <| .andThen undriven_writeReg undriven_modifyReg
  · exact .ret _

theorem undriven_parseRmc (line : List Byte) : (parseRmc c line).Keeps (Undriven b0) := by
  unfold parseRmc
  split
  · exact .andThen undriven_writeReg <| .andThen undriven_writeReg <| .andThen undriven_writeReg <| .andThen undriven_writeReg
      undriven_modifyReg
  · exact .ret _

theorem undriven_parseLine (line : List Byte) : (parseLine c line).Keeps (Undriven b0) := by
  unfold parseLine
  split
  · exact undriven_parseGga c line
  · split
    · exact undriven_parseRmc c line
    · exact .ret _

theorem driving_freeReady (i : Nat) (b : Block) : (freeReady i b).driving = b.driving := by
  unfold freeReady
  split <;> rfl

theorem undriven_drainSlot (i : Nat) : (drainSlot c i).Keeps (Undriven b0) := by
  refine .andThen ?_ <| (Prog.Keeps.askBytes _ _ _).bind fun line =>
    .andThen ?_ (.act fun b h => (driving_freeReady i b).trans h)
  · split
    · exact .forEach (fun _ => (Prog.Keeps.ask _).bind fun _ => undriven_act) _
    · exact .ret _
  · split
    · exact undriven_parseLine c line
    · exact undriven_modifyReg

theorem undriven_frmDrainProg : (frmDrainProg c).Keeps (Undriven b0) := by
  refine Prog.Keeps.bind (p := .micro _ _) ⟨fun _ h => h, fun _ => .ret _⟩ fun _ =>
    .andThen undriven_modifyReg <| .andThen (.forEach (fun i => (Prog.Keeps.ask _).bind fun r => ?_) _) undriven_act
  split
  · exact undriven_drainSlot c i
  · exact .ret _

theorem undriven_withWaypoint {use : Waypoint → Prog Unit} (h : ∀ w, (use w).Keeps (Undriven b0)) :
    (withWaypoint c use).Keeps (Undriven b0) := by
  refine (keeps_readReg _).bind fun i => (Prog.Keeps.require _).andThen ?_
  split
  · exact h _
  · exact .ret _

theorem undriven_advanceProg (fuel : Nat) : (advanceProg c fuel).Keeps (Undriven b0) := by
  induction fuel with
  | zero => exact .ret _
  | succ fuel ih =>
    refine undriven_withWaypoint c fun w => (keeps_readReg _).bind fun px => (keeps_readReg _).bind fun py => ?_
    split
    · exact .andThen undriven_modifyReg ih
    · exact .ret _

theorem undriven_gdeUpdateProg : (gdeUpdateProg c).Keeps (Undriven b0) :=
  (undriven_advanceProg c _).andThen <| Prog.Keeps.andThen
    ((keeps_readReg _).bind fun _ => (keeps_readReg _).bind fun _ => (keeps_readReg _).bind fun _ =>
      undriven_withWaypoint c fun _ => undriven_writeReg)
    undriven_act

theorem undriven_hdgBeginProg : hdgBeginProg.Keeps (Undriven b0) := (Prog.Keeps.require _).andThen <| .andThen undriven_act undriven_act

theorem undriven_rearm : rearm.Keeps (Undriven b0) := .andThen undriven_act <| .andThen undriven_act undriven_hdgBeginProg

theorem undriven_hdgPollProg : (hdgPollProg c).Keeps (Undriven b0) := by
  refine (Prog.Keeps.ask _).bind fun st => .andThen ?_ undriven_act
  split
  · exact (keeps_readReg _).bind fun _ => .andThen undriven_writeReg <| .andThen undriven_writeReg <|
      (keeps_readReg _).bind fun _ => .andThen undriven_writeReg <| undriven_rearm.andThen undriven_act
  split
  · exact .andThen undriven_writeReg <| .andThen undriven_modifyReg <| undriven_rearm.andThen undriven_act
  split
  · refine (Prog.Keeps.ask _).bind fun busy => .andThen ?_ undriven_act
    split
    · exact undriven_hdgBeginProg
    · exact .ret _
  · exact undriven_act

theorem storageClosed_undriven : StorageClosed (Undriven b0) where
  xchg _ _ h := h

end

theorem driving_positionArm (c : Config) (st : U32) (b : Block) : ((positionArm c st).run b).2.driving = b.driving := by
  by_cases hfix : st.getLsbD 0 = true
  · rw [run_positionArm_of_fix c hfix]
    rfl
  · rw [Bool.not_eq_true] at hfix
    by_cases hv : b.record.encValid = 1#8
    · rw [run_positionArm_of_ticks c hfix hv, run_deadReckon]
      rfl
    · rw [run_positionArm_of_neither c hfix hv]

theorem driving_estUpdateProg (c : Config) (b : Block) : ((estUpdateProg c).run b).2.driving = b.driving := by
  rw [run_estUpdateProg]
  exact driving_positionArm c _ (headed b)

theorem driving_encDrainProg (b : Block) : (encDrainProg.run b).2.driving = b.driving := by
  rw [run_encDrainProg]
  rfl

theorem driving_ite {p : Prop} [Decidable p] {b x y : Block} (hx : x.driving = b.driving) (hy : y.driving = b.driving) :
    (if p then x else y).driving = b.driving := by
  split
  · exact hx
  · exact hy

theorem driving_raiseEvent (e : Event) (b : Block) : (raiseEvent e b).driving = b.driving := driving_ite rfl rfl

theorem driving_setPulse (ch : Channel) (p : Pulse) (b : Block) : (setPulse ch p b).driving = b.driving := by
  cases ch <;> rfl

theorem driving_schBegin (b : Block) : (schBegin b).driving = b.driving := driving_ite rfl rfl

theorem driving_schWait (b : Block) : (schWait b).driving = b.driving := driving_ite rfl (driving_ite rfl rfl)

theorem driving_schTick (b : Block) : (schTick b).driving = b.driving := driving_ite (driving_raiseEvent _ _) rfl

theorem driving_pulseTick (ch : Channel) (b : Block) : (pulseTick ch b).driving = b.driving :=
  driving_ite (driving_ite ((driving_raiseEvent _ _).trans (driving_setPulse _ _ _)) (driving_setPulse _ _ _)) rfl

theorem driving_edgeDecode (q : BitVec 2) (b : Block) : (edgeDecode q b).driving = b.driving := driving_ite rfl (driving_ite rfl rfl)

theorem driving_hdgEvent (k : TwClass) (data : Byte) (b : Block) : (hdgEvent k data b).driving = b.driving := by
  cases k with
  | other => rfl
  | _ => exact driving_ite rfl rfl

/-- The framer's arms and its claim write the framer alone. -/
theorem driving_rxReceive {arm : Block → Except Fault Block} (harm : FramerLocal arm) {v : Byte} {b b' : Block}
    (h : rxReceive v arm b = .ok b') : b'.driving = b.driving := by
  have hclaim : (rxClaim (consumeEvent (.rx v) b)).1.driving = b.driving := by
    have hsame := rxClaim_graft (consumeEvent (.rx v) b) (consumeEvent (.rx v) b)
    rw [graft_self .rx] at hsame
    rw [congrArg Prod.fst hsame]
    rfl
  unfold rxReceive at h
  dsimp only at h
  split at h
  · have hsame := harm _ (rxClaim (consumeEvent (.rx v) b)).1 rfl
    rw [graft_self .rx, h] at hsame
    rw [Except.ok.inj hsame]
    exact hclaim
  · rw [← Except.ok.inj h]
    exact hclaim

/-! ## The drive commands -/

theorem neutral_lt_of_fwdWidth {c : Config} {k : Nat} {us : U16} (hc : c.ok = true) (h : fwdWidth c k = some us) :
    c.neutralUs.toNat < us.toNat := by
  simp only [Config.ok, Config.okThrottle, Bool.and_eq_true] at hc
  have hall : c.fwdUs.all (fun w => decide (c.neutralUs.toNat < w.toNat)) = true := by tauto
  rw [fwdWidth, Option.ite_none_right_eq_some] at h
  exact of_decide_eq_true (List.all_eq_true.mp hall us (List.mem_of_getElem? h.2))

theorem preReverseHold_of_ok {c : Config} (hc : c.ok = true) : 1 ≤ c.preReverseHold ∧ c.preReverseHold ≤ 255 := by
  simp only [Config.ok, Config.okThrottle, Bool.and_eq_true, decide_eq_true_eq] at hc
  tauto

variable {b : Block}

theorem DriveAgrees.driveForward {k : Nat} {us : U16} (hc : b.cfg.ok = true) (hus : fwdWidth b.cfg k = some us) :
    DriveAgrees ((Machine.driveForward us).run b).2 := by
  rw [run_driveForward]
  exact ⟨fun _ => (neutral_lt_of_fwdWidth hc hus).le, nofun, nofun, Nat.zero_le _⟩

/-- From `Forward` the width stays at neutral or above until the snap, and from `Reverse` nothing is said of it. -/
theorem DriveAgrees.driveStop (h : DriveAgrees b) : DriveAgrees ((Machine.driveStop b.cfg).run b).2 := by
  obtain ⟨us, d, hold, hrun, hstep⟩ := run_driveStop b
  rw [hrun]
  have hsnapped : ∀ {hold : Byte}, hold.toNat ≤ b.cfg.preReverseHold → DriveAgrees (driven b.cfg.neutralUs .neutral hold b) :=
    fun hle => ⟨nofun, fun _ => rfl, nofun, hle⟩
  cases hd : b.act.drive with
  | neutral =>
    obtain ⟨rfl, rfl, rfl⟩ := hstep.neutral hd
    exact hsnapped h.hold
  | preReverse =>
    obtain ⟨rfl, rfl, rfl⟩ := hstep.preReverse hd
    exact hsnapped (Nat.zero_le _)
  | forward =>
    obtain ⟨rfl, hsnap, habove, -⟩ := hstep.ramp _ (.inl ⟨hd, rfl⟩)
    have hn := h.forward hd
    by_cases hle : b.record.throttleUs.toNat ≤ b.cfg.neutralUs.toNat + b.cfg.stepFromFwd
    · obtain ⟨rfl, rfl⟩ := hsnap hle (by omega)
      exact hsnapped h.hold
    · obtain ⟨hus, rfl⟩ := habove (by omega)
      rw [hd]
      exact ⟨fun _ => by simp only [driven]; omega, nofun, nofun, h.hold⟩
  | reverse =>
    obtain ⟨rfl, hsnap, habove, hbelow⟩ := hstep.ramp _ (.inr ⟨hd, rfl⟩)
    have hmoved : d = .reverse → DriveAgrees (driven us d b.act.hold b) := by
      rintro rfl
      exact ⟨nofun, nofun, nofun, h.hold⟩
    by_cases hle : b.record.throttleUs.toNat ≤ b.cfg.neutralUs.toNat + b.cfg.stepFromRev
    · by_cases hge : b.cfg.neutralUs.toNat ≤ b.record.throttleUs.toNat + b.cfg.stepFromRev
      · obtain ⟨rfl, rfl⟩ := hsnap hle hge
        exact hsnapped h.hold
      · exact hmoved ((hbelow (by omega)).2.trans hd)
    · exact hmoved ((habove (by omega)).2.trans hd)

theorem DriveAgrees.driveReverse (h : DriveAgrees b) (hc : b.cfg.ok = true) (target : U16) : DriveAgrees ((Machine.driveReverse b.cfg target).run b).2 := by
  obtain ⟨hpos, hle⟩ := preReverseHold_of_ok hc
  cases hd : b.act.drive with
  | reverse =>
    rw [run_driveReverse_of_reverse hd]
    exact ⟨fun hf => (by simp [hd] at hf), fun hf => (by simp [hd] at hf), fun hf => (by simp [hd] at hf), h.hold⟩
  | forward =>
    rw [run_driveReverse_of_forward hd]
    exact h.driveStop
  | neutral =>
    rw [run_driveReverse_of_neutral hd]
    exact ⟨nofun, nofun, fun _ => ⟨rfl, hpos⟩, Nat.zero_le _⟩
  | preReverse =>
    rw [run_driveReverse_of_preReverse hd]
    obtain ⟨hus, hlt⟩ := h.preReverse hd
    have hnext : (b.act.hold + 1#8).toNat = b.act.hold.toNat + 1 := by
      rw [BitVec.toNat_add]
      exact Nat.mod_eq_of_lt (show b.act.hold.toNat + 1 < 256 by omega)
    split
    · exact ⟨nofun, nofun, nofun, hnext ▸ hlt⟩
    · next hbelow => exact ⟨nofun, nofun, fun _ => ⟨hus, Nat.not_le.mp hbelow⟩, hnext ▸ hlt⟩

/-- Whatever a drive command dispatches to keeps the agreement. -/
theorem DriveAgrees.driveOf (h : DriveAgrees b) (hc : b.cfg.ok = true) {cmd : DriveCmd} {p : Prog Unit} (hp : Machine.driveOf b.cfg cmd = some p) :
    DriveAgrees (p.run b).2 := by
  cases cmd with
  | stop => exact Option.some.inj hp ▸ h.driveStop
  | fwd k =>
    obtain ⟨us, hus, rfl⟩ := Option.map_eq_some_iff.mp hp
    exact DriveAgrees.driveForward hc hus
  | rev k =>
    obtain ⟨us, hus, rfl⟩ := Option.map_eq_some_iff.mp hp
    exact h.driveReverse hc us

theorem DriveAgrees.startup (hc : b.cfg.ok = true) : DriveAgrees ((actStartupProg b.cfg).run b).2 := by
  have hneutral : DriveAgrees (startupNeutralled b) := ⟨nofun, fun _ => rfl, nofun, Nat.zero_le _⟩
  cases hn : b.cfg.startupPulses with
  | zero =>
    rw [run_actStartupProg_of_none hn]
    exact hneutral
  | succ n =>
    rw [run_actStartupProg_of_pulse hc hn]
    exact hneutral.of_driving rfl

/-- The command of a waypoint names a class of the table, the terminal waypoint's none (R232, R246, R357). -/
theorem okDrive_of_waypointAt {c : Config} (hc : c.ok = true) {i : Nat} {w : Waypoint} (h : waypointAt c i = some w) :
    c.okDrive w.throttle = true := by
  simp only [Config.ok, Config.okTable, Bool.and_eq_true] at hc
  have hall : c.waypoints.all (fun w => c.okDrive w.throttle) = true := by tauto
  unfold waypointAt at h
  split at h
  · exact List.all_eq_true.mp hall w (List.mem_of_getElem? h)
  · split at h
    · rw [← Option.some.inj h]
      rfl
    · cases h

theorem DriveAgrees.update (h : DriveAgrees b) (hc : b.cfg.ok = true) (hi : b.record.wpIndex.toNat ≤ b.cfg.tableLen) {r : Unit × Block}
    (hr : (actUpdateProg b.cfg).attempt b = .ok r) : DriveAgrees r.2 := by
  obtain ⟨w, hw⟩ := Option.isSome_iff_exists.mp (waypointAt_isSome.mpr hi)
  have hwidths : b.cfg.fwdUs.length = b.cfg.nClasses ∧ b.cfg.revUs.length = b.cfg.nClasses := by
    have hthrottle := hc
    simp only [Config.ok, Config.okThrottle, Bool.and_eq_true, beq_iff_eq] at hthrottle
    tauto
  obtain ⟨p, hp, hsteady⟩ := driveOf_eq_some hwidths.1 hwidths.2 (okDrive_of_waypointAt hc hw)
  rw [attempt_actUpdateProg hw hp hsteady.total] at hr
  have hsteered : DriveAgrees (steered b.record.wpAngle b) := h.of_driving rfl
  rw [← Except.ok.inj hr]
  exact (hsteered.driveOf hc hp).of_driving ((driving_setPulse _ _ _).trans (driving_setPulse _ _ _))

/-! ## Instructions as a whole -/

/-- A next state, if there is one, has the agreement. -/
def AgreesAfter (o : Host.Outcome State Fault Refusal) : Prop := ∀ t, o = .next t → DriveAgrees t.blk

theorem AgreesAfter.next {s : State} (h : DriveAgrees s.blk) : AgreesAfter (.next s) := by
  rintro t ⟨⟩
  exact h

theorem AgreesAfter.fault (f : Fault) : AgreesAfter (.fault f) := fun _ h => by cases h

theorem AgreesAfter.refused (r : Refusal) : AgreesAfter (.refused r) := fun _ h => by cases h

theorem AgreesAfter.done {s : State} {f : Block → Block} (h : DriveAgrees s.blk) (hf : (f s.blk).driving = s.blk.driving) :
    AgreesAfter (done f s) := .next (h.of_driving hf)

theorem AgreesAfter.received {s : State} {v : Byte} {arm : Block → Except Fault Block} (h : DriveAgrees s.blk) (harm : FramerLocal arm) :
    AgreesAfter (doneOrFault (rxReceive v arm s.blk) s) := by
  intro t ht
  obtain ⟨b, he, rfl⟩ := doneOrFault_next ht
  exact h.of_driving (driving_rxReceive harm he)

theorem AgreesAfter.ran {s : State} {p : Prog α} (h : DriveAgrees (p.run s.blk).2) : AgreesAfter (Machine.complete p s) := .next h

theorem AgreesAfter.complete {s : State} {p : Prog α} (h : DriveAgrees s.blk) (hp : p.Keeps (Undriven s.blk)) :
    AgreesAfter (Machine.complete p s) := .ran (h.of_driving (hp.run rfl))

theorem AgreesAfter.perform {s : State} {p : Prog α} (h : DriveAgrees s.blk) (hp : p.Keeps (Undriven s.blk)) :
    AgreesAfter (perform p s) := by
  intro t ht
  obtain ⟨r, -, hr, rfl⟩ := perform_next ht
  exact h.of_driving (hr ▸ hp.run rfl)

theorem AgreesAfter.storage {s : State} (h : DriveAgrees s.blk) {i : Instr} {cmd : BitVec 6} {arg : U32} {trail : Byte}
    (hi : i ∈ storageInstrs cmd arg trail) : AgreesAfter (exec i s) := by
  obtain ⟨p, hp⟩ := exists_storageProg hi s
  rw [hp.exec_eq]
  exact .complete h (hp.keeps _ storageClosed_undriven (fun _ _ h => h) fun _ _ h => h)

/-- From a good state every instruction keeps the agreement. -/
theorem exec_agreesAfter {s : State} (hs : s.blk.Inv) (h : DriveAgrees s.blk) (i : Instr) : AgreesAfter (exec i s) := by
  cases i
  case frmRx v => exact .received h (framerLocal_rxArm v)
  case frmRxStart => exact .received h framerLocal_rxStartArm
  case frmRxTerm => exact .received h framerLocal_rxComplete
  case frmRxData v => exact .received h (framerLocal_rxDataArm v)
  case frmDrain => exact .complete h (undriven_frmDrainProg _)
  case schBegin => exact .done h (driving_schBegin _)
  case schWait => exact .done h (driving_schWait _)
  case schTick => exact .done h (driving_schTick _)
  case schOvf | prsChk | encEdgeNochg | encEdgeBoth | encEdgeA | encEdgeB => exact .done h rfl
  case schStclr => exact .complete h (.andThen undriven_writeReg undriven_act)
  case prsParse line => exact .complete h (undriven_parseLine _ line)
  case prsGga | prsParseGga => exact .complete h (undriven_parseGga _ _)
  case prsRmc | prsParseRmc => exact .complete h (undriven_parseRmc _ _)
  case prsParseIgnore => exact .next h
  case hdgBegin => exact .perform h undriven_hdgBeginProg
  case hdgPoll => exact .perform h (undriven_hdgPollProg _)
  case hdgEvt st data => exact .done h (driving_hdgEvent _ data _)
  case hdgEvtStart st data => exact .done h (driving_hdgEvent .start data _)
  case hdgEvtRepstart st data => exact .done h (driving_hdgEvent .repStart data _)
  case hdgEvtSlawAck st data => exact .done h (driving_hdgEvent .slawAck data _)
  case hdgEvtTxdataAck st data => exact .done h (driving_hdgEvent .txdataAck data _)
  case hdgEvtSlarAck st data => exact .done h (driving_hdgEvent .slarAck data _)
  case hdgEvtRxdataAck st data => exact .done h (driving_hdgEvent .rxdataAck data _)
  case hdgEvtRxdataNack st data => exact .done h (driving_hdgEvent .rxdataNack data _)
  case hdgEvtOther st data => exact .done h (driving_hdgEvent .other data _)
  case encEdge ab => exact .done h (driving_edgeDecode _ _)
  case encDrain => exact .ran (h.of_driving (driving_encDrainProg _))
  case estUpdate => exact .ran (h.of_driving (driving_estUpdateProg _ _))
  case gdeCrossed wp px py =>
    show AgreesAfter (execGdeCrossed wp px py s)
    unfold execGdeCrossed
    split
    · exact .done h rfl
    · exact .refused _
  case gdeAdvance => exact .perform h (undriven_advanceProg _ _)
  case gdeAngle px py heading =>
    show AgreesAfter (execGdeAngle px py heading s)
    unfold execGdeAngle
    split
    · exact .done h rfl
    · exact .fault _
  case gdeUpdate => exact .perform h (undriven_gdeUpdateProg _)
  case actFwd k =>
    show AgreesAfter (execActFwd k s)
    unfold execActFwd
    split
    · next us hus => exact .ran (DriveAgrees.driveForward hs.cfg hus)
    · exact .refused _
  case actStop =>
    rw [exec_actStop]
    exact .ran h.driveStop
  case actRev k =>
    show AgreesAfter (execActRev k s)
    unfold execActRev
    split
    · exact .ran (h.driveReverse hs.cfg _)
    · exact .refused _
  case actSteer angle => exact .complete h undriven_writeReg
  case actUpdate =>
    intro t ht
    obtain ⟨r, hr, -, rfl⟩ := perform_next ht
    exact h.update hs.cfg hs.waypoint hr
  case actStartup =>
    rw [exec_actStartup]
    exact .next (DriveAgrees.startup hs.cfg)
  case plsStart ch => exact .done h (driving_setPulse ch _ _)
  case plsMatch ch => exact .done h (driving_setPulse ch _ _)
  case plsTick ch => exact .done h (driving_pulseTick ch _)
  case stoCmd cmd arg trail => exact .storage h (cmd := cmd) (arg := arg) (trail := trail) (by simp [storageInstrs])
  case stoReadblk addr | stoCmdReadblk addr | stoCmdWriteblk addr =>
    exact .storage h (cmd := 0#6) (arg := addr) (trail := 0#8) (by simp [storageInstrs])
  case stoCmdReset | stoCmdIfcond | stoCmdApp | stoCmdOpcond | stoCmdReadocr | stoCmdReadcsd | stoInit | stoFind | stoWrite =>
    exact .storage h (cmd := 0#6) (arg := 0#32) (trail := 0#8) (by simp [storageInstrs])

/-- Settles O18: the drive commands keep the agreement, and no other instruction writes its registers. -/
theorem driveStateMatchesWidth : Obligations.DriveStateMatchesWidth := by
  unfold Obligations.DriveStateMatchesWidth
  rintro s t i hs ht ⟨hforward, hneutral, hpre, hhold⟩
  obtain ⟨hforward', hneutral', hpre', hhold'⟩ := exec_agreesAfter hs.blk ⟨hforward, hneutral, hpre, hhold⟩ i t ht
  exact ⟨hforward', hneutral', hpre', hhold'⟩

end Sys2Proof.Machine
end

section
/-!
SUPPORT. Dialogs with a storage device (`48_storage.md` rules R276 to R278, R288): what a device answers to the bytes sent to it, and
what the programs of the bus come to when the answers are known.
-/

namespace Sys2Proof.Machine

/-! ## What a device answers -/

/-- The block after the bytes `vs` were put on the bus, the first one first, with the device that is there now. -/
def Block.spoke (d : Device) (vs : List Byte) (b : Block) : Block :=
  { b with env := { b.env with device := d, spiSent := vs.reverse ++ b.env.spiSent } }

@[simp] theorem Block.spoke_spoke (d d' : Device) (vs vs' : List Byte) (b : Block) :
    (b.spoke d vs).spoke d' vs' = b.spoke d' (vs ++ vs') := by
  simp only [Block.spoke, List.reverse_append, List.append_assoc]

theorem Block.spoke_nil (b : Block) : b.spoke b.env.device [] = b := rfl

/-- The device of a block answers the bytes `vs` with the bytes `bs` and is `d'` after them. -/
inductive Block.Hears : Block → List Byte → List Byte → Device → Prop
  | nil (b : Block) : b.Hears [] [] b.env.device
  | cons {b : Block} {v : Byte} {d' : Device} {vs bs : List Byte}
      (rest : (b.spoke (deviceExchange b.cfg v (v :: b.env.spiSent) b.env.device).2 [v]).Hears vs bs d') :
      b.Hears (v :: vs) ((deviceExchange b.cfg v (v :: b.env.spiSent) b.env.device).1 :: bs) d'

theorem Block.Hears.length_eq {b : Block} {vs bs : List Byte} {d' : Device} (h : b.Hears vs bs d') : vs.length = bs.length := by
  induction h with
  | nil b => rfl
  | cons rest ih => simp [ih]

theorem Block.hears_nil_iff {b : Block} {bs : List Byte} {d' : Device} : b.Hears [] bs d' ↔ bs = [] ∧ d' = b.env.device := by
  refine ⟨fun h => ?_, ?_⟩
  · cases h
    exact ⟨rfl, rfl⟩
  · rintro ⟨rfl, rfl⟩
    exact .nil b

/-- Only the configuration, the device and what was sent matter. -/
theorem Block.Hears.congr {b b0 : Block} {vs bs : List Byte} {d' : Device} (h : b.Hears vs bs d') (hcfg : b0.cfg = b.cfg)
    (henv : b0.env = b.env) : b0.Hears vs bs d' := by
  induction h generalizing b0 with
  | nil b => exact henv ▸ .nil b0
  | cons rest ih =>
    rw [← hcfg, ← henv]
    exact .cons (ih hcfg (by simp only [Block.spoke, henv, hcfg]))

/-- Answers to bytes in two parts. -/
theorem Block.hears_append {b : Block} {vs vs' bs bs' : List Byte} {d' : Device} (hlen : vs.length = bs.length) :
    b.Hears (vs ++ vs') (bs ++ bs') d' ↔ ∃ d, b.Hears vs bs d ∧ (b.spoke d vs).Hears vs' bs' d' := by
  induction vs generalizing b bs with
  | nil =>
    obtain rfl := List.length_eq_zero_iff.mp hlen.symm
    simp only [List.nil_append, Block.hears_nil_iff, true_and, exists_eq_left]
    rfl
  | cons v vs ih =>
    cases bs with
    | nil => simp at hlen
    | cons r bs =>
      rw [List.length_cons, List.length_cons, Nat.succ.injEq] at hlen
      constructor
      · intro h
        cases h with
        | cons rest =>
          obtain ⟨d, hfirst, hsecond⟩ := (ih hlen).mp rest
          exact ⟨d, .cons hfirst, by rwa [Block.spoke_spoke] at hsecond⟩
      · rintro ⟨d, hfirst, hsecond⟩
        cases hfirst with
        | cons rest => exact .cons ((ih hlen).mpr ⟨d, rest, by rwa [Block.spoke_spoke]⟩)

theorem Block.Hears.split {b : Block} {vs vs' bs : List Byte} {d' : Device} (h : b.Hears (vs ++ vs') bs d') :
    ∃ bs₁ bs₂ d, bs = bs₁ ++ bs₂ ∧ b.Hears vs bs₁ d ∧ (b.spoke d vs).Hears vs' bs₂ d' := by
  have hlen : vs.length = (bs.take vs.length).length := by
    have := h.length_eq
    rw [List.length_append] at this
    rw [List.length_take]
    omega
  rw [← List.take_append_drop vs.length bs] at h
  obtain ⟨d, hfirst, hsecond⟩ := (Block.hears_append hlen).mp h
  exact ⟨_, _, d, (List.take_append_drop _ _).symm, hfirst, hsecond⟩

/-- Every device answers any bytes with as many. -/
theorem Block.exists_hears (b : Block) (vs : List Byte) : ∃ bs d', b.Hears vs bs d' := by
  induction vs generalizing b with
  | nil => exact ⟨_, _, .nil b⟩
  | cons v vs ih =>
    obtain ⟨bs, d', h⟩ := ih _
    exact ⟨_, d', .cons h⟩

/-- A script answers whatever it is sent. -/
theorem Block.hears_of_script {b : Block} {vs bs rest : List Byte} (hd : b.env.device = .script (bs ++ rest))
    (hlen : vs.length = bs.length) : b.Hears vs bs (.script rest) := by
  induction vs generalizing b bs with
  | nil =>
    obtain rfl := List.length_eq_zero_iff.mp hlen.symm
    exact Block.hears_nil_iff.mpr ⟨rfl, hd.symm⟩
  | cons v vs ih =>
    cases bs with
    | nil => simp at hlen
    | cons r bs =>
      have hex : deviceExchange b.cfg v (v :: b.env.spiSent) b.env.device = (r, .script (bs ++ rest)) := by rw [hd]; rfl
      have h := Block.Hears.cons (b := b) (v := v) (bs := bs) (d' := .script rest) (vs := vs) (by
        rw [hex]
        exact ih rfl (by simpa using hlen))
      rwa [hex] at h

/-! ## The programs of the bus -/

theorem run_xchg (v : Byte) (b : Block) :
    (xchg v).run b = ((deviceExchange b.cfg v (v :: b.env.spiSent) b.env.device).1,
      b.spoke (deviceExchange b.cfg v (v :: b.env.spiSent) b.env.device).2 [v]) := by
  rw [xchg, Prog.run_micro, Prog.run_ret, spiXchg, BitVec.ofNat_toNat, BitVec.setWidth_eq]
  rfl

theorem run_sendBytes {b : Block} {vs bs : List Byte} {d' : Device} (h : b.Hears vs bs d') :
    (sendBytes vs).run b = ((), b.spoke d' vs) := by
  induction h with
  | nil b => rfl
  | cons rest ih =>
    rw [sendBytes, Prog.run_andThen, run_xchg]
    dsimp only
    rw [ih, Block.spoke_spoke]
    rfl

theorem run_recvBytes {b : Block} {fl : Byte} {bs : List Byte} {d' : Device} (h : b.Hears (List.replicate bs.length fl) bs d') :
    (recvBytes fl bs.length).run b = (bs, b.spoke d' (List.replicate bs.length fl)) := by
  induction bs generalizing b with
  | nil =>
    obtain ⟨-, rfl⟩ := Block.hears_nil_iff.mp h
    rfl
  | cons r bs ih =>
    cases h with
    | cons rest =>
      simp only [List.length_cons, recvBytes, Prog.run_bind, run_xchg, ih rest, Prog.run_ret, Block.spoke_spoke]
      rfl

/-- What the answer poll of R278 hears: bytes with bit 7 set, then an answer or the last exchange. -/
inductive Polled : Nat → Option Byte → List Byte → Prop
  | timeout : Polled 0 none []
  | later {n : Nat} {r : Option Byte} {q : Byte} {bs : List Byte} (hq : q.msb = true) (rest : Polled n r bs) : Polled (n + 1) r (q :: bs)
  | answer {n : Nat} {v : Byte} (hv : v.msb = false) : Polled (n + 1) (some v) [v]

theorem polled_none_iff {n : Nat} {bs : List Byte} : Polled n none bs ↔ bs.length = n ∧ ∀ q ∈ bs, q.msb = true := by
  constructor
  · intro h
    generalize hr : (none : Option Byte) = r at h
    induction h with
    | timeout => simp
    | later hq rest ih =>
      obtain ⟨hlen, hall⟩ := ih hr
      exact ⟨by simp [hlen], by simpa using ⟨hq, hall⟩⟩
    | answer hv => cases hr
  · rintro ⟨rfl, hall⟩
    induction bs with
    | nil => exact .timeout
    | cons q bs ih => exact .later (hall q (by simp)) (ih fun p hp => hall p (by simp [hp]))

theorem polled_some_iff {n : Nat} {v : Byte} {bs : List Byte} :
    Polled n (some v) bs ↔ ∃ polls, bs = polls ++ [v] ∧ (∀ q ∈ polls, q.msb = true) ∧ polls.length < n ∧ v.msb = false := by
  constructor
  · intro h
    generalize hr : some v = r at h
    induction h with
    | timeout => cases hr
    | later hq rest ih =>
      obtain ⟨polls, rfl, hall, hlen, hv⟩ := ih hr
      exact ⟨_ :: polls, rfl, by simpa using ⟨hq, hall⟩, by simpa using hlen, hv⟩
    | answer hv =>
      cases hr
      exact ⟨[], rfl, by simp, by simp, hv⟩
  · rintro ⟨polls, rfl, hall, hlen, hv⟩
    obtain ⟨k, rfl⟩ := Nat.exists_eq_add_of_lt hlen
    clear hlen
    induction polls with
    | nil => simpa using .answer hv
    | cons q polls ih =>
      rw [List.length_cons, Nat.succ_add]
      exact .later (hall q (by simp)) (ih fun p hp => hall p (by simp [hp]))

/-- Any device's answers end the poll. -/
theorem exists_polled (fl : Byte) (n : Nat) (b : Block) :
    ∃ r bs d', Polled n r bs ∧ b.Hears (List.replicate bs.length fl) bs d' := by
  induction n generalizing b with
  | zero => exact ⟨none, [], _, .timeout, .nil b⟩
  | succ n ih =>
    cases hq : (deviceExchange b.cfg fl (fl :: b.env.spiSent) b.env.device).1.msb with
    | true =>
      obtain ⟨r, bs, d', hp, hh⟩ := ih (b.spoke (deviceExchange b.cfg fl (fl :: b.env.spiSent) b.env.device).2 [fl])
      exact ⟨r, _, d', .later hq hp, .cons hh⟩
    | false => exact ⟨_, _, _, .answer hq, .cons (.nil _)⟩

theorem run_answerPoll {fl : Byte} {n : Nat} {r : Option Byte} {bs : List Byte} (hp : Polled n r bs) {b : Block} {d' : Device}
    (h : b.Hears (List.replicate bs.length fl) bs d') : (answerPoll fl n).run b = (r, b.spoke d' (List.replicate bs.length fl)) := by
  induction hp generalizing b with
  | timeout =>
    obtain ⟨-, rfl⟩ := Block.hears_nil_iff.mp h
    rfl
  | later hq rest ih =>
    cases h with
    | cons hrest =>
      rw [answerPoll, Prog.run_bind, run_xchg]
      dsimp only
      rw [if_pos hq, ih hrest, Block.spoke_spoke]
      rfl
  | answer hv =>
    cases h with
    | cons hrest =>
      obtain ⟨-, rfl⟩ := Block.hears_nil_iff.mp hrest
      rw [answerPoll, Prog.run_bind, run_xchg]
      dsimp only
      rw [if_neg (by rw [hv]; exact Bool.false_ne_true)]
      rfl

/-! ## Commands -/

/-- The bytes sent in a dialog of `n` exchanges that begins with a command: its frame, then fillers. -/
def sentFor (c : Config) (f : CmdFrame) (n : Nat) : List Byte := frameBytes c f ++ List.replicate (n - 6) c.answers.filler

theorem length_frameBytes (c : Config) (f : CmdFrame) : (frameBytes c f).length = 6 := rfl

theorem length_sentFor (c : Config) (f : CmdFrame) {n : Nat} (hn : 6 ≤ n) : (sentFor c f n).length = n := by
  rw [sentFor, List.length_append, length_frameBytes, List.length_replicate]
  omega

theorem sentFor_add (c : Config) (f : CmdFrame) {m : Nat} (hm : 6 ≤ m) (n : Nat) :
    sentFor c f (m + n) = sentFor c f m ++ List.replicate n c.answers.filler := by
  rw [sentFor, sentFor, List.append_assoc, List.replicate_append_replicate, Nat.sub_add_comm hm]

/-- The answers of a command: one for each byte of the frame, then those of the poll (R278). -/
theorem reply_iff {c : Config} {r : Option Byte} {bs : List Byte} :
    reply c r bs ↔ ∃ frame polls, frame.length = 6 ∧ Polled c.respRetryMax r polls ∧ bs = frame ++ polls := by
  cases r with
  | none =>
    simp only [reply, polled_none_iff]
    constructor
    · rintro ⟨frame, late, hf, hlen, hall, rfl⟩
      exact ⟨frame, late, hf, ⟨hlen, hall⟩, rfl⟩
    · rintro ⟨frame, late, hf, ⟨hlen, hall⟩, rfl⟩
      exact ⟨frame, late, hf, hlen, hall, rfl⟩
  | some v =>
    simp only [reply, answers, polled_some_iff]
    constructor
    · rintro ⟨frame, polls, ⟨hf, hall, hlen, hv⟩, rfl⟩
      exact ⟨frame, polls ++ [v], hf, ⟨polls, rfl, hall, hlen, hv⟩, by rw [List.append_assoc]⟩
    · rintro ⟨frame, _, hf, ⟨polls, rfl, hall, hlen, hv⟩, rfl⟩
      exact ⟨frame, polls, ⟨hf, hall, hlen, hv⟩, by rw [List.append_assoc]⟩

theorem six_le_of_reply {c : Config} {r : Option Byte} {bs : List Byte} (h : reply c r bs) : 6 ≤ bs.length := by
  obtain ⟨frame, polls, hf, -, rfl⟩ := reply_iff.mp h
  rw [List.length_append]
  omega

/-- A dialog that begins with a command: its frame, then fillers. -/
def Block.Answers (b : Block) (c : Config) (f : CmdFrame) (bs : List Byte) (d' : Device) : Prop := b.Hears (sentFor c f bs.length) bs d'

/-- Fillers alone. -/
def Block.Fills (b : Block) (c : Config) (bs : List Byte) (d' : Device) : Prop :=
  b.Hears (List.replicate bs.length c.answers.filler) bs d'

/-- What follows the answers of a command is answered to fillers. -/
theorem Block.answers_append {b : Block} {c : Config} {f : CmdFrame} {bs bs' : List Byte} {d' : Device} (hlen : 6 ≤ bs.length) :
    b.Answers c f (bs ++ bs') d' ↔ ∃ d, b.Answers c f bs d ∧ (b.spoke d (sentFor c f bs.length)).Fills c bs' d' := by
  rw [Block.Answers, List.length_append, sentFor_add c f hlen, Block.hears_append (length_sentFor c f hlen)]
  rfl

theorem Block.fills_append {b : Block} {c : Config} {bs bs' : List Byte} {d' : Device} :
    b.Fills c (bs ++ bs') d' ↔ ∃ d, b.Fills c bs d ∧ (b.spoke d (List.replicate bs.length c.answers.filler)).Fills c bs' d' := by
  rw [Block.Fills, List.length_append, ← List.replicate_append_replicate, Block.hears_append List.length_replicate]
  rfl

theorem Block.answers_of_script {b : Block} (c : Config) (f : CmdFrame) {bs rest : List Byte} (hd : b.env.device = .script (bs ++ rest))
    (hlen : 6 ≤ bs.length) : b.Answers c f bs (.script rest) := Block.hears_of_script hd (length_sentFor c f hlen)

/-- A command whose answers are known. -/
theorem run_command {c : Config} {f : CmdFrame} {r : Option Byte} {bs : List Byte} (hr : reply c r bs) {b : Block} {d' : Device}
    (h : b.Answers c f bs d') : (command c f).run b = (r, (setCs true b).spoke d' (sentFor c f bs.length)) := by
  obtain ⟨frame, polls, hf, hp, rfl⟩ := reply_iff.mp hr
  have hsent : sentFor c f (frame ++ polls).length = frameBytes c f ++ List.replicate polls.length c.answers.filler := by
    rw [sentFor, List.length_append, hf, Nat.add_sub_cancel_left]
  rw [Block.Answers, hsent, Block.hears_append ((length_frameBytes c f).trans hf.symm)] at h
  obtain ⟨d, hframe, hpolls⟩ := h
  rw [command, Prog.run_andThen, Prog.run_act, Prog.run_andThen, run_sendBytes (hframe.congr (b0 := setCs true b) rfl rfl),
    run_answerPoll hp (hpolls.congr (b0 := (setCs true b).spoke d (frameBytes c f)) rfl rfl), Block.spoke_spoke, hsent]

/-- Any device's answers to a command are a reply. -/
theorem exists_reply (c : Config) (f : CmdFrame) (b : Block) : ∃ r bs d', reply c r bs ∧ b.Answers c f bs d' := by
  obtain ⟨frame, d, hframe⟩ := b.exists_hears (frameBytes c f)
  have hlen := hframe.length_eq
  obtain ⟨r, polls, d', hp, hpolls⟩ := exists_polled c.answers.filler c.respRetryMax (b.spoke d (frameBytes c f))
  refine ⟨r, frame ++ polls, d', reply_iff.mpr ⟨frame, polls, hlen.symm, hp, rfl⟩, ?_⟩
  rw [Block.Answers, sentFor, List.length_append, ← hlen, length_frameBytes, Nat.add_sub_cancel_left, Block.hears_append hlen]
  exact ⟨d, hframe, hpolls⟩

theorem run_commandAlone {c : Config} {f : CmdFrame} {r : Option Byte} {bs : List Byte} (hr : reply c r bs) {b : Block} {d' : Device}
    (h : b.Answers c f bs d') : (commandAlone c f).run b = (r, (setCs false b).spoke d' (sentFor c f bs.length)) := by
  rw [commandAlone, Prog.run_bind, run_command hr h]
  rfl

end Sys2Proof.Machine
end

section
/-!
SUPPORT. `STO.CMD` and the arms that are a command alone (`48_storage.md` rules R278, R279, R281, R282, R286, R287).
-/

namespace Sys2Proof.Machine

/-- A device gives one reply to a command. -/
theorem reply_unique {c : Config} {f : CmdFrame} {r r' : Option Byte} {bs bs' : List Byte} {b : Block} {d d' : Device}
    (hr : reply c r bs) (h : b.Answers c f bs d) (hr' : reply c r' bs') (h' : b.Answers c f bs' d') :
    r = r' ∧ bs.length = bs'.length ∧ d = d' := by
  have heq := (run_command hr h).symm.trans (run_command hr' h')
  rw [Prod.mk.injEq] at heq
  obtain ⟨hres, hblk⟩ := heq
  have hdev := congrArg (fun b => b.env.device) hblk
  have hsent := congrArg (fun b => b.env.spiSent.length) hblk
  simp only [Block.spoke, List.length_append, List.length_reverse, length_sentFor c f (six_le_of_reply hr),
    length_sentFor c f (six_le_of_reply hr')] at hdev hsent
  exact ⟨hres, Nat.add_right_cancel hsent, hdev⟩

theorem length_le_of_polled {n : Nat} {r : Option Byte} {bs : List Byte} (h : Polled n r bs) :
    bs.length ≤ n ∧ (1 ≤ n → 1 ≤ bs.length) ∧ (r = none → bs.length = n) := by
  induction h with
  | timeout => simp
  | later hq rest ih =>
    obtain ⟨hle, -, hnone⟩ := ih
    exact ⟨by simpa using hle, fun _ => by simp, fun hr => by simp [hnone hr]⟩
  | answer hv => simp

/-- An answer has bit 7 clear. -/
theorem msb_of_reply {c : Config} {v : Byte} {bs : List Byte} (h : reply c (some v) bs) : v.msb = false := by
  obtain ⟨-, -, ⟨-, -, -, hv⟩, -⟩ := h
  exact hv

theorem reverse_frameBytes (c : Config) (f : CmdFrame) :
    (frameBytes c f).reverse =
      [f.trail, byteOf f.arg 0, byteOf f.arg 1, byteOf f.arg 2, byteOf f.arg 3, c.cmdHeader ||| f.cmd.zeroExtend 8] := rfl

/-- A storage operation that returns its value, when its run is known. -/
theorem done_setRet_of_run {s : State} {p : Config → Prog α} {g : α → Result} {a : α} {b' : Block}
    (h : (p s.blk.cfg).run s.blk = (a, b')) :
    done (fun b => setRet (g ((p b.cfg).run b).1) ((p b.cfg).run b).2) s = .next { s with blk := setRet (g a) b' } := by
  rw [done, State.mapBlk, h]

/-- Settles O53: the arms are one command, whose device stays selected or not, and a device gives one reply to it. -/
theorem stoCmdSendsFrameAndPolls : Obligations.StoCmdSendsFrameAndPolls := by
  unfold Obligations.StoCmdSendsFrameAndPolls
  intro s cmd arg trail hmax p hp
  obtain ⟨r, bs, d', hr, hh⟩ := exists_reply s.blk.cfg p.2.1 s.blk
  have hexec : exec p.1 s = .next { s with blk := setRet (.answer r) ((setCs p.2.2 s.blk).spoke d' (sentFor s.blk.cfg p.2.1 bs.length)) } := by
    simp only [List.mem_cons, List.not_mem_nil, or_false] at hp
    obtain rfl | rfl | rfl | rfl | rfl | rfl := hp
    · exact done_setRet_of_run (p := fun c => command c ⟨cmd, arg, trail⟩) (run_command hr hh)
    · exact done_setRet_of_run (p := fun c => command c (frameReadblk arg)) (run_command hr hh)
    · exact done_setRet_of_run (p := fun c => command c (frameWriteblk arg)) (run_command hr hh)
    · exact done_setRet_of_run (p := fun c => commandAlone c frameReset) (run_commandAlone hr hh)
    · exact done_setRet_of_run (p := fun c => commandAlone c frameApp) (run_commandAlone hr hh)
    · exact done_setRet_of_run (p := fun c => commandAlone c frameOpcond) (run_commandAlone hr hh)
  obtain ⟨front, polled, hfront, hpolled, rfl⟩ := reply_iff.mp hr
  obtain ⟨hle, hpos, hnone⟩ := length_le_of_polled hpolled
  have hn : (front ++ polled).length = 6 + polled.length := by rw [List.length_append, hfront]
  refine ⟨_, r, polled.length, hexec, hpos hmax, hle, ?_, ?_, hnone, fun frame polls rest hframe hmsb => ⟨?_, ?_⟩⟩
  · simp only [State.mapBlk, Block.spoke, setRet, setCs, sentFor, hn, Nat.add_sub_cancel_left, List.reverse_append,
      List.reverse_replicate, reverse_frameBytes]
  · rintro v rfl
    exact msb_of_reply hr
  · intro v hlt hv hd
    have hreply : reply s.blk.cfg (some v) (frame ++ polls ++ [v]) := ⟨frame, polls, ⟨hframe, hmsb, hlt, hv⟩, rfl⟩
    obtain ⟨rfl, hlen, rfl⟩ := reply_unique hr hh hreply (Block.answers_of_script _ _ hd (six_le_of_reply hreply))
    simp only [List.length_append, List.length_singleton, hfront, hframe] at hlen
    exact ⟨rfl, by omega, rfl⟩
  · intro hlate hd
    have hreply : reply s.blk.cfg none (frame ++ polls) := ⟨frame, polls, hframe, hlate, hmsb, rfl⟩
    obtain ⟨rfl, -, rfl⟩ := reply_unique hr hh hreply (Block.answers_of_script _ _ hd (six_le_of_reply hreply))
    exact ⟨rfl, rfl⟩

end Sys2Proof.Machine
end

section
/-!
SUPPORT. The commands that read (`48_storage.md` rules R280, R283, R285, R288, R290): what they keep of the bytes received.
-/

namespace Sys2Proof.Machine

/-! ## Words -/

theorem run_cmdIfcond_of_echo {c : Config} {a e : List Byte} (hr : reply c (some c.answers.idle) a) (he : e.length = 4) {b : Block}
    {d' : Device} (h : b.Answers c frameIfcond (a ++ e) d') :
    (cmdIfcond c).run b = (e.getD 2 0#8 == 0x01#8 && e.getD 3 0#8 == 0xAA#8,
      (setCs false b).spoke d' (sentFor c frameIfcond (a ++ e).length)) := by
  obtain ⟨d, ha, hf⟩ := (Block.answers_append (six_le_of_reply hr)).mp h
  have hrecv := run_recvBytes (hf.congr (b0 := (setCs true b).spoke d (sentFor c frameIfcond a.length)) rfl rfl)
  rw [he] at hrecv
  rw [cmdIfcond, Prog.run_bind, run_command hr ha]
  dsimp only
  rw [if_pos rfl, Prog.run_bind, hrecv, Block.spoke_spoke, List.length_append, sentFor_add c _ (six_le_of_reply hr), he]
  rfl

theorem run_cmdIfcond_of_refusal {c : Config} {r : Option Byte} {a : List Byte} (hne : r ≠ some c.answers.idle) (hr : reply c r a)
    {b : Block} {d' : Device} (h : b.Answers c frameIfcond a d') :
    (cmdIfcond c).run b = (false, (setCs false b).spoke d' (sentFor c frameIfcond a.length)) := by
  rw [cmdIfcond, Prog.run_bind, run_command hr h]
  dsimp only
  rw [if_neg hne]
  rfl

theorem run_cmdReadocr_of_word {c : Config} {a o : List Byte} (hr : reply c (some c.answers.ready) a) (ho : o.length = 4) {b : Block}
    {d' : Device} (h : b.Answers c frameReadocr (a ++ o) d') :
    (cmdReadocr c).run b = (some (wordOf o), (setCs false b).spoke d' (sentFor c frameReadocr (a ++ o).length)) := by
  obtain ⟨d, ha, hf⟩ := (Block.answers_append (six_le_of_reply hr)).mp h
  have hrecv := run_recvBytes (hf.congr (b0 := (setCs true b).spoke d (sentFor c frameReadocr a.length)) rfl rfl)
  rw [ho] at hrecv
  rw [cmdReadocr, Prog.run_bind, run_command hr ha]
  dsimp only
  rw [if_pos rfl, Prog.run_bind, hrecv, Block.spoke_spoke, List.length_append, sentFor_add c _ (six_le_of_reply hr), ho]
  rfl

theorem run_cmdReadocr_of_refusal {c : Config} {r : Option Byte} {a : List Byte} (hne : r ≠ some c.answers.ready) (hr : reply c r a)
    {b : Block} {d' : Device} (h : b.Answers c frameReadocr a d') :
    (cmdReadocr c).run b = (none, (setCs false b).spoke d' (sentFor c frameReadocr a.length)) := by
  rw [cmdReadocr, Prog.run_bind, run_command hr h]
  dsimp only
  rw [if_neg hne]
  rfl

/-! ## Data blocks -/

/-- Fillers before another byte, within the ceiling, are passed over (R288). -/
theorem run_tokenPoll_of_token {fl t : Byte} {gaps : List Byte} (hg : ∀ g ∈ gaps, g = fl) (ht : t ≠ fl) {n : Nat} (hn : gaps.length < n)
    {b : Block} {d' : Device} (h : b.Hears (List.replicate (gaps ++ [t]).length fl) (gaps ++ [t]) d') :
    (tokenPoll fl n).run b = (t, b.spoke d' (List.replicate (gaps ++ [t]).length fl)) := by
  obtain ⟨n, rfl⟩ : ∃ m, n = m + 1 := ⟨n - 1, by omega⟩
  induction gaps generalizing b n with
  | nil =>
    cases h with
    | cons rest =>
      obtain ⟨-, rfl⟩ := Block.hears_nil_iff.mp rest
      rw [tokenPoll, Prog.run_bind, run_xchg]
      dsimp only
      rw [if_neg ht]
      rfl
  | cons g gaps ih =>
    cases h with
    | cons rest =>
      obtain ⟨n, rfl⟩ : ∃ m, n = m + 1 := ⟨n - 1, by rw [List.length_cons] at hn; omega⟩
      rw [tokenPoll, Prog.run_bind, run_xchg]
      dsimp only
      rw [if_pos (hg _ (by simp)), ih (fun g hg' => hg g (by simp [hg'])) rest n (by simpa using hn), Block.spoke_spoke]
      rfl

/-- Fillers up to the ceiling are no token. -/
theorem run_tokenPoll_of_fillers {fl : Byte} {gaps : List Byte} (hg : ∀ g ∈ gaps, g = fl) {b : Block} {d' : Device}
    (h : b.Hears (List.replicate gaps.length fl) gaps d') :
    (tokenPoll fl gaps.length).run b = (fl, b.spoke d' (List.replicate gaps.length fl)) := by
  induction gaps generalizing b with
  | nil =>
    obtain ⟨-, rfl⟩ := Block.hears_nil_iff.mp h
    rfl
  | cons g gaps ih =>
    cases h with
    | cons rest =>
      rw [List.length_cons, tokenPoll, Prog.run_bind, run_xchg]
      dsimp only
      rw [if_pos (hg _ (by simp)), ih (fun g hg' => hg g (by simp [hg'])) rest, Block.spoke_spoke]
      rfl

/-- Bytes written into a list from the `i`-th on, those past its end left out. -/
def overwrite : Nat → List Byte → List Byte → List Byte
  | _, [], l => l
  | i, v :: vs, l => overwrite (i + 1) vs (l.set i v)

theorem length_overwrite (i : Nat) (vs l : List Byte) : (overwrite i vs l).length = l.length := by
  induction vs generalizing i l with
  | nil => rfl
  | cons v vs ih => rw [overwrite, ih, List.length_set]

theorem getElem?_overwrite (i : Nat) (vs l : List Byte) (j : Nat) :
    (overwrite i vs l)[j]? = if i ≤ j ∧ j < i + vs.length ∧ j < l.length then vs[j - i]? else l[j]? := by
  induction vs generalizing i l with
  | nil => rw [overwrite, if_neg (by rw [List.length_nil]; omega)]
  | cons v vs ih =>
    rw [overwrite, ih, List.length_set, List.length_cons]
    obtain hlt | rfl | hgt := Nat.lt_trichotomy i j
    · rw [List.getElem?_set_ne hlt.ne, show j - i = (j - (i + 1)) + 1 by omega, List.getElem?_cons_succ]
      refine if_congr ?_ rfl rfl
      omega
    · rw [if_neg (by omega), Nat.sub_self, List.getElem?_cons_zero, List.getElem?_set_self']
      split
      · next h => simp [List.getElem?_eq_getElem h.2.2]
      · next h => rw [List.getElem?_eq_none (by omega)]; rfl
    · rw [if_neg (by omega), if_neg (by omega), List.getElem?_set_ne hgt.ne']

/-- A list overwritten by at least as many bytes is their beginning. -/
theorem overwrite_eq_take {vs l : List Byte} (h : l.length ≤ vs.length) : overwrite 0 vs l = vs.take l.length := by
  refine List.ext_getElem? fun j => ?_
  rw [getElem?_overwrite, List.getElem?_take]
  split
  · next hj => rw [if_pos hj.2.2, Nat.sub_zero]
  · next hj =>
    rw [if_neg (by omega), List.getElem?_eq_none (by omega)]

/-- A buffer of the storage registers. -/
structure Buffer where
  get : Storage → List Byte
  set : List Byte → Storage → Storage
  size : Nat

/-- `csd` (R285) and `lead` (R290). -/
def csdBuffer : Buffer := { get := (·.csd), set := fun l st => { st with csd := l }, size := 16 }

def leadBuffer : Buffer := { get := (·.lead), set := fun l st => { st with lead := l }, size := 4 }

/-- The block with the buffer written. -/
def Block.fill (B : Buffer) (l : List Byte) (b : Block) : Block := { b with sto := B.set l b.sto }

theorem Block.fill_spoke (B : Buffer) (l : List Byte) (d : Device) (vs : List Byte) (b : Block) :
    (b.spoke d vs).fill B l = (b.fill B l).spoke d vs := rfl

theorem Block.Hears.fill {b : Block} {vs bs : List Byte} {d' : Device} (h : b.Hears vs bs d') (B : Buffer) (l : List Byte) :
    (b.fill B l).Hears vs bs d' := h.congr rfl rfl

/-- What is written is read back, and the other registers, the chip select among them, are as they were; a byte received is written
at its place, those past the end of the buffer nowhere. -/
structure Buffer.Lawful (B : Buffer) (keep : Nat → Byte → Prog Unit) : Prop where
  get_set : ∀ l st, B.get (B.set l st) = l
  set_set : ∀ l l' st, B.set l (B.set l' st) = B.set l st
  set_get : ∀ st, B.set (B.get st) st = st
  get_cs : ∀ v st, B.get { st with cs := v } = B.get st
  set_cs : ∀ l v st, B.set l { st with cs := v } = { B.set l st with cs := v }
  run_keep : ∀ i v b, (B.get b.sto).length = B.size → (keep i v).run b = ((), b.fill B ((B.get b.sto).set i v))

theorem lawful_csdBuffer : csdBuffer.Lawful keepCsd where
  get_set _ _ := rfl
  set_set _ _ _ := rfl
  set_get _ := rfl
  get_cs _ _ := rfl
  set_cs _ _ _ := rfl
  run_keep _ _ _ _ := rfl

theorem lawful_leadBuffer : leadBuffer.Lawful keepLead where
  get_set _ _ := rfl
  set_set _ _ _ := rfl
  set_get _ := rfl
  get_cs _ _ := rfl
  set_cs _ _ _ := rfl
  run_keep i v b hlen := by
    unfold keepLead
    split
    · rfl
    · next hi =>
      have hset : b.sto.lead.set i v = b.sto.lead := List.set_eq_of_length_le (hlen.trans_le (Nat.not_lt.mp hi))
      rw [Block.fill, leadBuffer, hset]
      rfl

section
variable {B : Buffer} {keep : Nat → Byte → Prog Unit} (hB : B.Lawful keep)
include hB

theorem fill_fill (l l' : List Byte) (b : Block) : (b.fill B l').fill B l = b.fill B l := by
  rw [Block.fill, Block.fill, Block.fill]
  dsimp only
  rw [hB.set_set]

theorem get_fill (l : List Byte) (b : Block) : B.get (b.fill B l).sto = l := hB.get_set _ _

/-- The bytes received stand in the buffer from their place on. -/
theorem run_recvInto {fl : Byte} (data : List Byte) (i : Nat) {b : Block} {d' : Device} (hlen : (B.get b.sto).length = B.size)
    (h : b.Hears (List.replicate data.length fl) data d') :
    (recvInto fl keep data.length i).run b =
      ((), (b.fill B (overwrite i data (B.get b.sto))).spoke d' (List.replicate data.length fl)) := by
  induction data generalizing i b with
  | nil =>
    obtain ⟨-, rfl⟩ := Block.hears_nil_iff.mp h
    rw [List.length_nil, recvInto, overwrite, Block.fill, hB.set_get]
    rfl
  | cons r data ih =>
    cases h with
    | cons rest =>
      rw [List.length_cons, recvInto, Prog.run_bind, run_xchg, Prog.run_andThen, hB.run_keep _ _ _ (by exact hlen)]
      dsimp only
      rw [ih (i + 1) (by rw [get_fill hB, List.length_set]; exact hlen) (rest.fill B _), get_fill hB, fill_fill hB, Block.fill_spoke,
        Block.spoke_spoke]
      rfl

/-- A block whose token comes is kept from its beginning (R288). -/
theorem run_readData_of_block {c : Config} {gaps data tail : List Byte} (hg : dataBlock c gaps) (ht : tail.length = 2) {b : Block}
    {d' : Device} (hlen : (B.get b.sto).length = B.size) (hsize : B.size ≤ data.length)
    (h : b.Fills c (gaps ++ [c.answers.dataToken] ++ data ++ tail) d') :
    (readData c keep data.length).run b = (true, (b.fill B (data.take B.size)).spoke d'
      (List.replicate (gaps ++ [c.answers.dataToken] ++ data ++ tail).length c.answers.filler)) := by
  obtain ⟨hfill, hmax, hne⟩ := hg
  obtain ⟨d2, h, htail⟩ := Block.fills_append.mp h
  obtain ⟨d1, htoken, hdata⟩ := Block.fills_append.mp h
  have hkept := run_recvInto hB data 0 (b := b.spoke d1 _) hlen hdata
  have hbuffer : overwrite 0 data (B.get b.sto) = data.take B.size := by
    rw [overwrite_eq_take (hlen.trans_le hsize), hlen]
  change _ = ((), (Block.fill B (overwrite 0 data (B.get b.sto)) _).spoke _ _) at hkept
  rw [hbuffer, Block.fill_spoke, Block.spoke_spoke, List.replicate_append_replicate, ← List.length_append] at hkept
  have hrecv := run_recvBytes (htail.fill B (data.take B.size))
  rw [ht, Block.fill_spoke, Block.spoke_spoke] at hrecv
  rw [readData, Prog.run_bind, run_tokenPoll_of_token hfill hne hmax htoken]
  dsimp only
  rw [if_pos rfl, Prog.run_andThen, hkept, Prog.run_bind, hrecv, List.replicate_append_replicate, ← ht, ← List.length_append]
  rfl

end

/-- Without the token nothing is kept: another one, or none in time (R288). -/
theorem run_readData_of_other (keep : Nat → Byte → Prog Unit) (n : Nat) {c : Config} {gaps : List Byte} {token : Byte}
    (hg : ∀ g ∈ gaps, g = c.answers.filler) (hmax : gaps.length < c.tokenRetryMax) (hfill : token ≠ c.answers.filler)
    (hne : token ≠ c.answers.dataToken) {b : Block} {d' : Device} (h : b.Fills c (gaps ++ [token]) d') :
    (readData c keep n).run b = (false, b.spoke d' (List.replicate (gaps ++ [token]).length c.answers.filler)) := by
  rw [readData, Prog.run_bind, run_tokenPoll_of_token hg hfill hmax h]
  dsimp only
  rw [if_neg hne, Prog.run_ret]

theorem run_readData_of_fillers (keep : Nat → Byte → Prog Unit) (n : Nat) {c : Config} {gaps : List Byte}
    (hg : ∀ g ∈ gaps, g = c.answers.filler) (hmax : gaps.length = c.tokenRetryMax) (hne : c.answers.dataToken ≠ c.answers.filler)
    {b : Block} {d' : Device} (h : b.Fills c gaps d') :
    (readData c keep n).run b = (false, b.spoke d' (List.replicate gaps.length c.answers.filler)) := by
  rw [readData, Prog.run_bind, ← hmax, run_tokenPoll_of_fillers hg h]
  dsimp only
  rw [if_neg hne.symm, Prog.run_ret]

/-! ## Block reads -/

theorem six_le_of_blockReply {c : Config} {data bs : List Byte} (h : blockReply c data bs) : 6 ≤ bs.length := by
  obtain ⟨a, gaps, tail, hr, -, -, rfl⟩ := h
  have := six_le_of_reply hr
  simp only [List.length_append]
  omega

theorem six_le_of_blockRefusal {c : Config} {bs : List Byte} (h : blockRefusal c bs) : 6 ≤ bs.length := by
  obtain ⟨r, -, hr⟩ | ⟨a, gaps, hr, -, ⟨token, -, -, -, rfl⟩ | ⟨-, -, rfl⟩⟩ := h <;> have := six_le_of_reply hr
  · exact this
  · simp only [List.length_append]
    omega
  · simp only [List.length_append]
    omega

/-- A command with a data block after its answer (R285, R290). -/
def blockRead (c : Config) (f : CmdFrame) (keep : Nat → Byte → Prog Unit) (forget : Block → Block) (n : Nat) : Prog Bool :=
  (command c f).bind (readBlockData c keep forget n)

theorem cmdReadcsd_eq (c : Config) : cmdReadcsd c = blockRead c frameReadcsd keepCsd forgetCsd 16 := rfl

theorem readBlock_eq (c : Config) (addr : U32) :
    readBlock c addr = blockRead c (frameReadblk addr) keepLead forgetLead c.blockSize := rfl

/-- A block that comes fills the buffer. -/
theorem run_blockRead_of_reply {B : Buffer} {keep : Nat → Byte → Prog Unit} (hB : B.Lawful keep) {c : Config} (f : CmdFrame)
    (forget : Block → Block) {data bs : List Byte} (hr : blockReply c data bs) {b : Block} {d' : Device}
    (hlen : (B.get b.sto).length = B.size) (hsize : B.size ≤ data.length) (h : b.Answers c f bs d') :
    (blockRead c f keep forget data.length).run b =
      (true, (setCs false (b.fill B (data.take B.size))).spoke d' (sentFor c f bs.length)) := by
  obtain ⟨a, gaps, tail, ha, hg, ht, rfl⟩ := hr
  have hassoc : a ++ gaps ++ [c.answers.dataToken] ++ data ++ tail = a ++ (gaps ++ [c.answers.dataToken] ++ data ++ tail) := by
    simp only [List.append_assoc]
  rw [hassoc] at h ⊢
  obtain ⟨d, hcmd, hblock⟩ := (Block.answers_append (six_le_of_reply ha)).mp h
  have hread := run_readData_of_block hB hg ht (b := (setCs true b).spoke d (sentFor c f a.length))
    ((congrArg List.length (hB.get_cs true b.sto)).trans hlen) hsize (hblock.congr rfl rfl)
  rw [blockRead, Prog.run_bind, run_command ha hcmd, List.length_append, sentFor_add c f (six_le_of_reply ha)]
  dsimp only
  rw [readBlockData, if_pos rfl, Prog.run_bind, hread, Block.fill_spoke, Block.spoke_spoke]
  have hcs : setCs false ((setCs true b).fill B (data.take B.size)) = setCs false (b.fill B (data.take B.size)) := by
    rw [Block.fill, setCs, setCs, hB.set_cs]
    rfl
  rw [← hcs]
  rfl

/-- A block read that fails leaves the buffer undefined, whatever made it fail. -/
theorem run_blockRead_of_refusal (keep : Nat → Byte → Prog Unit) (n : Nat) {c : Config} (f : CmdFrame) (forget : Block → Block)
    {bs : List Byte} (hr : blockRefusal c bs) {b : Block} {d' : Device} (h : b.Answers c f bs d') :
    (blockRead c f keep forget n).run b = (false, setCs false (forget ((setCs true b).spoke d' (sentFor c f bs.length)))) := by
  have hforgotten : ∀ {p : Prog Bool} {b1 b2 : Block}, p.run b1 = (false, b2) →
      (p.bind fun ok => (if ok then .ret () else Prog.act forget).andThen (deselect.andThen (.ret ok))).run b1
        = (false, setCs false (forget b2)) := by
    intro p b1 b2 hp
    rw [Prog.run_bind, hp]
    rfl
  obtain ⟨r, hne, hr⟩ | ⟨a, gaps, ha, hg, htoken⟩ := hr
  · rw [blockRead, Prog.run_bind, run_command hr h]
    dsimp only
    rw [readBlockData, if_neg hne]
    exact hforgotten rfl
  · have hread : ∀ tl, b.Answers c f (a ++ tl) d' → bs = a ++ tl →
        (∀ {b1 : Block}, b1.Fills c tl d' →
          (readData c keep n).run b1 = (false, b1.spoke d' (List.replicate tl.length c.answers.filler))) →
        (blockRead c f keep forget n).run b = (false, setCs false (forget ((setCs true b).spoke d' (sentFor c f bs.length)))) := by
      rintro tl h rfl hdata
      obtain ⟨d, hcmd, hblock⟩ := (Block.answers_append (six_le_of_reply ha)).mp h
      rw [blockRead, Prog.run_bind, run_command ha hcmd, List.length_append, sentFor_add c f (six_le_of_reply ha)]
      dsimp only
      rw [readBlockData, if_pos rfl, hforgotten (hdata (hblock.congr (b0 := (setCs true b).spoke d (sentFor c f a.length)) rfl rfl)), Block.spoke_spoke]
    obtain ⟨token, hmax, hfill, hne, rfl⟩ | ⟨hmax, hne, rfl⟩ := htoken
    · exact hread _ (List.append_assoc _ _ _ ▸ h) (List.append_assoc _ _ _) fun hb => run_readData_of_other keep n hg hmax hfill hne hb
    · exact hread _ h rfl fun hb => run_readData_of_fillers keep n hg hmax hne hb

end Sys2Proof.Machine
end

section
/-!
SUPPORT. The reading commands as instructions (`48_storage.md` rules R280, R283, R285, R288, R290).
-/

namespace Sys2Proof.Machine

theorem four_le_blockSize {c : Config} (h : c.ok = true) : 4 ≤ c.blockSize := by
  have := recordPayload_le h
  omega

/-- `csd` holds the sixteen bytes of the block read. -/
theorem run_cmdReadcsd_of_reply {c : Config} {data bs : List Byte} (hr : blockReply c data bs) (hdata : data.length = 16) {b : Block}
    {d' : Device} (hcsd : b.sto.csd.length = 16) (h : b.Answers c frameReadcsd bs d') :
    (cmdReadcsd c).run b =
      (true, Block.spoke d' (sentFor c frameReadcsd bs.length) { b with sto := { b.sto with cs := false, csd := data } }) := by
  have hrun := run_blockRead_of_reply lawful_csdBuffer frameReadcsd forgetCsd hr hcsd hdata.ge h
  rw [hdata, show data.take csdBuffer.size = data from List.take_of_length_le hdata.le] at hrun
  exact hrun

/-- `lead` holds the first four bytes of the block read. -/
theorem run_readBlock_of_reply {c : Config} {data bs : List Byte} (addr : U32) (hr : blockReply c data bs)
    (hdata : data.length = c.blockSize) (hsize : 4 ≤ c.blockSize) {b : Block} {d' : Device} (hlead : b.sto.lead.length = 4)
    (h : b.Answers c (frameReadblk addr) bs d') :
    (readBlock c addr).run b =
      (true, Block.spoke d' (sentFor c (frameReadblk addr) bs.length) { b with sto := { b.sto with cs := false, lead := data.take 4 } }) := by
  have hrun := run_blockRead_of_reply lawful_leadBuffer (frameReadblk addr) forgetLead hr hlead (hsize.trans hdata.ge) h
  rw [hdata] at hrun
  exact hrun

theorem run_cmdReadcsd_of_refusal {c : Config} {bs : List Byte} (hr : blockRefusal c bs) {b : Block} {d' : Device}
    (h : b.Answers c frameReadcsd bs d') :
    (cmdReadcsd c).run b = (false, Block.spoke d' (sentFor c frameReadcsd bs.length)
      { b with sto := { b.sto with cs := false, csd := freshBytes b 16 }, fresh := b.fresh + 16 }) :=
  run_blockRead_of_refusal keepCsd 16 frameReadcsd forgetCsd hr h

theorem run_readBlock_of_refusal {c : Config} {bs : List Byte} (addr : U32) (hr : blockRefusal c bs) {b : Block} {d' : Device}
    (h : b.Answers c (frameReadblk addr) bs d') :
    (readBlock c addr).run b = (false, Block.spoke d' (sentFor c (frameReadblk addr) bs.length)
      { b with sto := { b.sto with cs := false, lead := freshBytes b 4 }, fresh := b.fresh + 4 }) :=
  run_blockRead_of_refusal keepLead c.blockSize (frameReadblk addr) forgetLead hr h

/-! ## Instructions -/

/-- A reading instruction fails: it answers `ret` and deselects the device, and takes the answers up to `rest`. -/
def ReadFails (s : State) (rest : List Byte) (i : Instr) (ret : Result) : Prop :=
  ∃ t, exec i s = .next t ∧ t.blk.ret = ret ∧ t.blk.env.device = .script rest
    ∧ t.blk.sto = { s.blk.sto with cs := false, lead := t.blk.sto.lead, csd := t.blk.sto.csd }

section
variable {s : State} {bs rest : List Byte} (hd : s.blk.env.device = .script (bs ++ rest))
include hd

theorem ifcond_fails {r : Option Byte} (hne : r ≠ some s.blk.cfg.answers.idle) (hr : reply s.blk.cfg r bs) :
    ReadFails s rest .stoCmdIfcond (.flag false) :=
  ⟨_, done_setRet_of_run (p := cmdIfcond) (run_cmdIfcond_of_refusal hne hr (Block.answers_of_script _ _ hd (six_le_of_reply hr))),
    rfl, rfl, rfl⟩

theorem readocr_fails {r : Option Byte} (hne : r ≠ some s.blk.cfg.answers.ready) (hr : reply s.blk.cfg r bs) :
    ReadFails s rest .stoCmdReadocr (.word none) :=
  ⟨_, done_setRet_of_run (p := cmdReadocr) (run_cmdReadocr_of_refusal hne hr (Block.answers_of_script _ _ hd (six_le_of_reply hr))),
    rfl, rfl, rfl⟩

theorem readcsd_fails (hr : blockRefusal s.blk.cfg bs) : ReadFails s rest .stoCmdReadcsd (.flag false) :=
  ⟨_, done_setRet_of_run (p := cmdReadcsd) (run_cmdReadcsd_of_refusal hr (Block.answers_of_script _ _ hd (six_le_of_blockRefusal hr))),
    rfl, rfl, rfl⟩

theorem readblk_fails (addr : U32) (hr : blockRefusal s.blk.cfg bs) : ReadFails s rest (.stoReadblk addr) (.flag false) :=
  ⟨_, done_setRet_of_run (p := fun c => readBlock c addr)
    (run_readBlock_of_refusal addr hr (Block.answers_of_script _ _ hd (six_le_of_blockRefusal hr))), rfl, rfl, rfl⟩

end

/-- Settles O55: each reading command on the answers given, and on each way they can fail it. -/
theorem storageReadsKeepAnswers : Obligations.StorageReadsKeepAnswers := by
  unfold Obligations.StorageReadsKeepAnswers
  intro s addr frame polls rest r hok hans hcsd hlead
  have hreply : reply s.blk.cfg (some r) (frame ++ polls ++ [r]) := ⟨frame, polls, hans, rfl⟩
  have hsix := six_le_of_reply hreply
  refine ⟨fun e0 e1 e2 e3 hd => ?words, fun gaps data tail hgaps htail hready hd => ?blocks, fun hd => ?answer, fun late hlen hmsb hd => ?late,
    fun gaps hgaps hready => ?token⟩
  case words =>
    have hd' : s.blk.env.device = .script (frame ++ polls ++ [r] ++ [e0, e1, e2, e3] ++ rest) := by simp [hd]
    have hlen : 6 ≤ (frame ++ polls ++ [r] ++ [e0, e1, e2, e3]).length := by
      rw [List.length_append]
      omega
    refine ⟨?_, ?_⟩
    · rintro rfl
      refine ⟨_, done_setRet_of_run (p := cmdIfcond) (run_cmdIfcond_of_echo hreply rfl (Block.answers_of_script _ _ hd' hlen)), ?_, rfl, rfl⟩
      rw [Bool.decide_and]
      rfl
    · rintro rfl
      exact ⟨_, done_setRet_of_run (p := cmdReadocr) (run_cmdReadocr_of_word hreply rfl (Block.answers_of_script _ _ hd' hlen)), rfl, rfl, rfl⟩
  case blocks =>
    subst hready
    have hblock : blockReply s.blk.cfg data (frame ++ polls ++ [s.blk.cfg.answers.ready] ++ gaps ++ [s.blk.cfg.answers.dataToken] ++ data ++ tail) :=
      ⟨_, gaps, tail, hreply, hgaps, htail, rfl⟩
    have hsix := six_le_of_blockReply hblock
    refine ⟨fun hdata => ?_, fun hdata => ?_⟩
    · exact ⟨_, done_setRet_of_run (p := cmdReadcsd) (run_cmdReadcsd_of_reply hblock hdata hcsd (Block.answers_of_script _ _ hd hsix)), rfl, rfl, rfl⟩
    · exact ⟨_, done_setRet_of_run (p := fun c => readBlock c addr) (run_readBlock_of_reply addr hblock hdata (four_le_blockSize hok) hlead
        (Block.answers_of_script _ _ hd hsix)), rfl, rfl, rfl⟩
  case answer =>
    refine ⟨fun hne => ifcond_fails hd (by simpa using hne) hreply, fun hne p hp => ?_⟩
    have hrefusal : blockRefusal s.blk.cfg (frame ++ polls ++ [r]) := .inl ⟨some r, by simpa using hne, hreply⟩
    simp only [List.mem_cons, List.not_mem_nil, or_false] at hp
    obtain rfl | rfl | rfl := hp
    · exact readocr_fails hd (by simpa using hne) hreply
    · exact readcsd_fails hd hrefusal
    · exact readblk_fails hd addr hrefusal
  case late =>
    intro p hp
    have hlate : reply s.blk.cfg none (frame ++ late) := ⟨frame, late, hans.1, hlen, hmsb, rfl⟩
    have hrefusal : blockRefusal s.blk.cfg (frame ++ late) := .inl ⟨none, nofun, hlate⟩
    simp only [List.mem_cons, List.not_mem_nil, or_false] at hp
    obtain rfl | rfl | rfl | rfl := hp
    · exact ifcond_fails hd (r := none) nofun hlate
    · exact readocr_fails hd (r := none) nofun hlate
    · exact readcsd_fails hd hrefusal
    · exact readblk_fails hd addr hrefusal
  case token =>
    subst hready
    intro p hp
    have hfails : ∀ bs, blockRefusal s.blk.cfg bs → s.blk.env.device = .script (bs ++ rest) → ReadFails s rest p.1 p.2 := by
      intro bs hbs hd
      simp only [List.mem_cons, List.not_mem_nil, or_false] at hp
      obtain rfl | rfl := hp
      · exact readcsd_fails hd hbs
      · exact readblk_fails hd addr hbs
    exact ⟨fun token hmax hfill hne => hfails _ (.inr ⟨_, gaps, hreply, hgaps, .inl ⟨token, hmax, hfill, hne, rfl⟩⟩),
      fun hmax hne => hfails _ (.inr ⟨_, gaps, hreply, hgaps, .inr ⟨hmax, hne, rfl⟩⟩)⟩

end Sys2Proof.Machine
end

section
/-!
SUPPORT. `STO.WRITE` (`48_storage.md` rules R295 to R300).
-/

namespace Sys2Proof.Machine

/-! ## The data phase -/

/-- The bytes of the record image as they are streamed. -/
def streamed (c : Config) (b : Block) : List Byte := (List.range c.blockSize).map fun i => recordByte i b

theorem length_streamed (c : Config) (b : Block) : (streamed c b).length = c.blockSize := by
  rw [streamed, List.length_map, List.length_range]

/-- What is streamed is the record image. -/
theorem streamed_eq_recordImage {b : Block} (hok : b.cfg.ok = true) : streamed b.cfg b = recordImage b := by
  obtain ⟨hlen, -⟩ := recordImageLayout b hok
  refine List.ext_getElem (by rw [length_streamed, hlen]) fun i hi hi' => ?_
  rw [length_streamed] at hi
  simp only [streamed, List.getElem_map, List.getElem_range, recordByte, List.getD_eq_getElem _ _ hi']

theorem run_sendRecord {n i : Nat} {b : Block} {bs : List Byte} {d' : Device}
    (h : b.Hears ((List.range' i n).map fun i => recordByte i b) bs d') :
    (sendRecord n i).run b = ((), b.spoke d' ((List.range' i n).map fun i => recordByte i b)) := by
  induction n generalizing i b bs with
  | zero =>
    obtain ⟨-, rfl⟩ := Block.hears_nil_iff.mp h
    rfl
  | succ n ih =>
    rw [List.range'_succ, List.map_cons] at h ⊢
    cases h with
    | cons rest =>
      rw [sendRecord, Prog.run_andThen]
      exact (ih rest).trans (congrArg (Prod.mk ()) (Block.spoke_spoke _ _ _ _ _))

/-- The bytes of the data phase up to the data response (R295, R296). -/
def dataPhase (c : Config) (b : Block) : List Byte :=
  [c.answers.dataToken] ++ streamed c b ++ [c.answers.filler, c.answers.filler] ++ [c.answers.filler]

theorem length_dataPhase (c : Config) (b : Block) : (dataPhase c b).length = c.blockSize + 4 := by
  simp only [dataPhase, List.length_append, length_streamed, List.length_cons, List.length_nil]
  omega

/-- After the data response the device is polled for the end of its busy time, or the write has failed. -/
theorem run_writeData {c : Config} {echo : List Byte} {resp : Byte} {b : Block} {d : Device}
    (h : b.Hears (dataPhase c b) (echo ++ [resp]) d) :
    (writeData c).run b = (if dataAccepted c resp then busyPoll c (busyTries c) else .ret false).run (b.spoke d (dataPhase c b)) := by
  obtain ⟨bs, bresp, d3, hbs, h, hresp⟩ := h.split
  obtain ⟨_, _, d2, _, h, hfill⟩ := h.split
  obtain ⟨_, _, d1, _, htoken, himage⟩ := h.split
  obtain rfl : bresp = [resp] := (List.append_inj' hbs.symm hresp.length_eq.symm).2
  have hstream := run_sendRecord (b := b.spoke d1 [c.answers.dataToken]) (n := c.blockSize) (i := 0)
    (by rw [← List.range_eq_range']; exact himage)
  rw [← List.range_eq_range', Block.spoke_spoke] at hstream
  change _ = ((), b.spoke d2 ([c.answers.dataToken] ++ streamed c b)) at hstream
  have hlast : (xchg c.answers.filler).run (b.spoke d3 ([c.answers.dataToken] ++ streamed c b ++ [c.answers.filler, c.answers.filler]))
      = (resp, b.spoke d (dataPhase c b)) := by
    generalize hone : [resp] = one at hresp
    rw [run_xchg]
    cases hresp with
    | cons rest =>
      obtain ⟨rfl, rfl⟩ := Block.hears_nil_iff.mp rest
      rw [List.cons.injEq] at hone
      rw [← hone.1, Block.spoke_spoke]
      rfl
  rw [writeData, Prog.run_andThen, run_sendBytes htoken, Prog.run_andThen, hstream, Prog.run_andThen, run_sendBytes hfill, Block.spoke_spoke,
    Prog.run_bind, hlast]

theorem run_busyPoll_of_ready {c : Config} {busies : List Byte} {last : Byte} (hb : ∀ v ∈ busies, v = c.answers.busy)
    (hl : last ≠ c.answers.busy) {n : Nat} (hn : busies.length < n) {b : Block} {d : Device} (h : b.Fills c (busies ++ [last]) d) :
    (busyPoll c n).run b = (true, b.spoke d (List.replicate (busies ++ [last]).length c.answers.filler)) := by
  obtain ⟨n, rfl⟩ : ∃ m, n = m + 1 := ⟨n - 1, by omega⟩
  unfold Block.Fills at h
  induction busies generalizing b n with
  | nil =>
    cases h with
    | cons rest =>
      obtain ⟨-, rfl⟩ := Block.hears_nil_iff.mp rest
      rw [busyPoll, Prog.run_bind, run_xchg]
      dsimp only
      rw [if_neg hl]
      rfl
  | cons v busies ih =>
    cases h with
    | cons rest =>
      obtain ⟨n, rfl⟩ : ∃ m, n = m + 1 := ⟨n - 1, by rw [List.length_cons] at hn; omega⟩
      rw [busyPoll, Prog.run_bind, run_xchg]
      dsimp only
      rw [if_pos (hb _ (by simp)), ih (fun v hv => hb v (by simp [hv])) rest n (by simpa using hn), Block.spoke_spoke]
      rfl

/-- A device busy up to the ceiling is not ready in time. -/
theorem run_busyPoll_of_busy {c : Config} {n : Nat} {b : Block} {d : Device}
    (h : b.Fills c (List.replicate n c.answers.busy) d) :
    (busyPoll c n).run b = (c.busyIgnored, b.spoke d (List.replicate n c.answers.filler)) := by
  rw [Block.Fills, List.length_replicate] at h
  induction n generalizing b with
  | zero =>
    obtain ⟨-, rfl⟩ := Block.hears_nil_iff.mp h
    rfl
  | succ n ih =>
    generalize hbusy : List.replicate (n + 1) c.answers.busy = bs at h
    rw [List.replicate_succ] at h hbusy
    cases h with
    | cons rest =>
      rw [List.cons.injEq] at hbusy
      obtain ⟨hfirst, rfl⟩ := hbusy
      rw [busyPoll, Prog.run_bind, run_xchg]
      dsimp only
      rw [if_pos hfirst.symm, ih rest, Block.spoke_spoke]
      rfl

/-! ## The write as a whole -/

/-- The block after a write that the device took, or did not take (R295). -/
def wrote (ok : Bool) (b : Block) : Block :=
  if ok then { b with sto := { b.sto with cs := false, nextBlock := b.sto.nextBlock + 1#32 } }
  else { b with sto := { b.sto with cs := false, enabled := false } }

/-- The write ends by whether its command was answered "ready" and its data taken. -/
theorem run_writeRecord {c : Config} {r : Option Byte} {a : List Byte} (hr : reply c r a) {b : Block} {d d' : Device}
    (h : b.Answers c (frameWriteblk b.sto.nextBlock) a d) {ok : Bool} {vs : List Byte}
    (hdata : (if r = some c.answers.ready then writeData c else .ret false).run
      ((setCs true b).spoke d (sentFor c (frameWriteblk b.sto.nextBlock) a.length)) = (ok, (setCs true b).spoke d' vs)) :
    (writeRecord c).run b = ((), (wrote ok b).spoke d' vs) := by
  rw [writeRecord, Prog.run_bind, run_readReg]
  dsimp only
  rw [Prog.run_bind, nextBlockReg_get, run_command hr h, Prog.run_bind, hdata]
  cases ok with
  | false => rfl
  | true =>
    simp only [if_true, bumpBlock, modifyReg, Prog.run_andThen, Prog.run_bind, run_readReg, run_write_nextBlockReg]
    rfl

theorem run_stoWriteProg_of_disabled (c : Config) {b : Block} (he : b.sto.enabled = false) :
    ((stoWriteProg c).run b).2 = { b with phase := 8#4 } := by
  simp only [stoWriteProg, Prog.run_bind, Prog.run_ask, he, Bool.toNat_false, Prog.run_andThen, run_endPhase]
  rfl

theorem run_stoWriteProg_of_full (c : Config) {b : Block} (he : b.sto.enabled = true)
    (hfull : b.sto.capacityBlocks.toNat ≤ b.sto.nextBlock.toNat) :
    ((stoWriteProg c).run b).2 = { b with sto := { b.sto with enabled := false }, phase := 8#4 } := by
  simp only [stoWriteProg, writeIfRoom, Prog.run_bind, Prog.run_ask, he, Bool.toNat_true, if_true, Prog.run_andThen, run_endPhase,
    run_readReg, nextBlockReg_get, capacityReg_get, if_pos hfull, Prog.run_act]
  rfl

theorem run_stoWriteProg_of_room (c : Config) {b : Block} (he : b.sto.enabled = true)
    (hroom : b.sto.nextBlock.toNat < b.sto.capacityBlocks.toNat) :
    ((stoWriteProg c).run b).2 = setPhase 8#4 ((writeRecord c).run b).2 := by
  simp only [stoWriteProg, writeIfRoom, Prog.run_bind, Prog.run_ask, he, Bool.toNat_true, if_true, Prog.run_andThen, run_endPhase,
    run_readReg, nextBlockReg_get, capacityReg_get, if_neg (Nat.not_le.mpr hroom)]

theorem exec_stoWrite (s : State) : exec .stoWrite s = complete (stoWriteProg s.blk.cfg) s := rfl

/-! ## On any device -/

/-- A block after some exchanges. -/
def SpokenFrom (b0 b : Block) : Prop := ∃ d vs, b = b0.spoke d vs

theorem spokenFrom_spiXchg (b0 : Block) (v : Byte) (b : Block) (h : SpokenFrom b0 b) : SpokenFrom b0 (spiXchg v b).1 := by
  obtain ⟨d, vs, rfl⟩ := h
  exact ⟨_, vs ++ [v], Block.spoke_spoke d _ vs [v] b0⟩

/-- Whatever the device answers, the write ends in one of the two ways. -/
theorem exists_run_writeRecord (c : Config) (b : Block) : ∃ ok d vs, (writeRecord c).run b = ((), (wrote ok b).spoke d vs) := by
  obtain ⟨r, a, d, hr, h⟩ := exists_reply c (frameWriteblk b.sto.nextBlock) b
  have hspoken : SpokenFrom (setCs true b) ((if r = some c.answers.ready then writeData c else .ret false).run
      ((setCs true b).spoke d (sentFor c (frameWriteblk b.sto.nextBlock) a.length))).2 := by
    split
    · exact (keeps_writeData (spokenFrom_spiXchg _) c).run ⟨d, _, rfl⟩
    · exact ⟨d, _, rfl⟩
  obtain ⟨d', vs, hdata⟩ := hspoken
  exact ⟨_, d', vs, run_writeRecord hr h (Prod.ext rfl hdata)⟩

/-! ## Settled -/

theorem respAccepted_iff (c : Config) (d : Byte) : dataAccepted c d = true ↔ d &&& c.answers.respMask = c.answers.respAccepted := by
  rw [dataAccepted, beq_iff_eq]

/-- The bytes of a write whose command is answered in `n` exchanges, with `m` busy polls. -/
def writeBytes (c : Config) (b : Block) (n m : Nat) : List Byte :=
  sentFor c (frameWriteblk b.sto.nextBlock) n ++ dataPhase c b ++ List.replicate m c.answers.filler

/-- A write whose command is answered "ready" ends by its data response and its busy polls. -/
theorem run_writeRecord_of_ready {c : Config} {a echo polls : List Byte} {resp : Byte} (ha : reply c (some c.answers.ready) a) {b : Block}
    {d : Device} (h : b.Hears (writeBytes c b a.length polls.length) (a ++ (echo ++ [resp]) ++ polls) d) {ok : Bool}
    (hecho : echo.length = c.blockSize + 3)
    (hpoll : ∀ b1 : Block, b1.Fills c polls d →
      (if dataAccepted c resp then busyPoll c (busyTries c) else .ret false).run b1
        = (ok, b1.spoke d (List.replicate polls.length c.answers.filler))) :
    (writeRecord c).run b = ((), (wrote ok b).spoke d (writeBytes c b a.length polls.length)) := by
  have hla := length_sentFor c (frameWriteblk b.sto.nextBlock) (six_le_of_reply ha)
  obtain ⟨d2, h, hpolls⟩ := (Block.hears_append (by
    simp only [List.length_append, hla, length_dataPhase, hecho, List.length_singleton])).mp h
  obtain ⟨d1, hcmd, hdata⟩ := (Block.hears_append hla).mp h
  refine run_writeRecord ha hcmd ?_
  have hrun := run_writeData (b := (setCs true b).spoke d1 (sentFor c (frameWriteblk b.sto.nextBlock) a.length)) (hdata.congr rfl rfl)
  have hphase : dataPhase c ((setCs true b).spoke d1 (sentFor c (frameWriteblk b.sto.nextBlock) a.length)) = dataPhase c b := rfl
  have hpolled := hpoll ((setCs true b).spoke d2 (sentFor c (frameWriteblk b.sto.nextBlock) a.length ++ dataPhase c b)) (hpolls.congr rfl rfl)
  rw [Block.spoke_spoke, hphase, hpolled, Block.spoke_spoke] at hrun
  rw [if_pos rfl]
  exact hrun

theorem length_writeBytes (c : Config) (b : Block) {n : Nat} (hn : 6 ≤ n) (m : Nat) :
    (writeBytes c b n m).length = n + (c.blockSize + 4) + m := by
  rw [writeBytes, List.length_append, List.length_append, length_sentFor c _ hn, length_dataPhase, List.length_replicate]

/-- A write that the device does not take (R296, R298, R325). -/
theorem run_writeRecord_of_refusal {c : Config} {bs rest : List Byte} (hr : writeRefusal c bs) {b : Block}
    (hd : b.env.device = .script (bs ++ rest)) :
    ∃ sent, sent.length = bs.length ∧ (writeRecord c).run b = ((), (wrote false b).spoke (.script rest) sent) := by
  obtain ⟨r, hne, hr⟩ | ⟨a, echo, resp, ha, he, h⟩ := hr
  · refine ⟨_, length_sentFor c (frameWriteblk b.sto.nextBlock) (six_le_of_reply hr),
      run_writeRecord hr (Block.answers_of_script c _ hd (six_le_of_reply hr)) ?_⟩
    rw [if_neg hne, Prog.run_ret]
  · have hready : ∀ polls, bs = a ++ (echo ++ [resp]) ++ polls → (∀ b1 : Block, b1.Fills c polls (.script rest) →
        (if dataAccepted c resp then busyPoll c (busyTries c) else .ret false).run b1
          = (false, b1.spoke (.script rest) (List.replicate polls.length c.answers.filler))) →
        ∃ sent, sent.length = bs.length ∧ (writeRecord c).run b = ((), (wrote false b).spoke (.script rest) sent) := by
      rintro polls rfl hpoll
      have hlen : (writeBytes c b a.length polls.length).length = (a ++ (echo ++ [resp]) ++ polls).length := by
        simp only [length_writeBytes c b (six_le_of_reply ha), List.length_append, he, List.length_singleton]
      exact ⟨_, hlen, run_writeRecord_of_ready ha (Block.hears_of_script hd hlen) he hpoll⟩
    obtain ⟨hbad, rfl⟩ | ⟨hgood, hbusy, rfl⟩ := h
    · refine hready [] (by simp) fun b1 hb => ?_
      obtain ⟨-, hdev⟩ := Block.hears_nil_iff.mp hb
      rw [if_neg (mt (respAccepted_iff c resp).mp hbad), hdev]
      rfl
    · refine hready (List.replicate c.busyRetryMax c.answers.busy) (by simp) fun b1 hb => ?_
      rw [if_pos ((respAccepted_iff c resp).mpr hgood), busyTries, if_neg (by rw [hbusy]; exact Bool.false_ne_true), run_busyPoll_of_busy hb,
        hbusy, List.length_replicate]

/-- Settles O58: disabled, full, and the two ends of a write; on a script each refusal leads to the second. -/
theorem stoWriteOutcome : Obligations.StoWriteOutcome := by
  unfold Obligations.StoWriteOutcome
  refine fun s => ⟨fun he => ?_, fun he hfull => ?_, fun he hroom => ?_, fun bs rest he hroom hr hd => ?_⟩ <;>
    rw [exec_stoWrite, complete]
  · exact done_eq_next (run_stoWriteProg_of_disabled _ he)
  · exact done_eq_next (run_stoWriteProg_of_full _ he hfull)
  · obtain ⟨ok, d, vs, hrun⟩ := exists_run_writeRecord s.blk.cfg s.blk
    have hblk : ((stoWriteProg s.blk.cfg).run s.blk).2 = setPhase 8#4 ((wrote ok s.blk).spoke d vs) := by
      rw [run_stoWriteProg_of_room _ he hroom, hrun]
    refine ⟨_, done_eq_next (g := fun b => setPhase 8#4 ((wrote ok b).spoke d vs)) hblk, ?_, ?_⟩
    · cases ok <;> rfl
    · cases ok with
      | false => exact .inr ⟨rfl, rfl⟩
      | true => exact .inl ⟨he, rfl⟩
  · obtain ⟨sent, hlen, hrun⟩ := run_writeRecord_of_refusal hr hd
    refine ⟨sent.reverse, done_eq_next ?_, by rw [List.length_reverse, hlen]⟩
    rw [run_stoWriteProg_of_room _ he hroom, hrun]
    rfl

/-- Settles O59: the bytes of an accepted write, with the image as it stands. -/
theorem stoWriteStreamsRecord : Obligations.StoWriteStreamsRecord := by
  unfold Obligations.StoWriteStreamsRecord
  intro s frame polls echo busies rest resp last hok hign he hroom hans hecho hresp hbusies hmax hlast hd
  have ha : reply s.blk.cfg (some s.blk.cfg.answers.ready) (frame ++ polls ++ [s.blk.cfg.answers.ready]) := ⟨frame, polls, hans, rfl⟩
  have hd' : s.blk.env.device = .script (frame ++ polls ++ [s.blk.cfg.answers.ready] ++ (echo ++ [resp]) ++ (busies ++ [last]) ++ rest) := by
    simp only [hd, List.append_assoc]
  have hlen : (writeBytes s.blk.cfg s.blk (frame ++ polls ++ [s.blk.cfg.answers.ready]).length (busies ++ [last]).length).length
      = (frame ++ polls ++ [s.blk.cfg.answers.ready] ++ (echo ++ [resp]) ++ (busies ++ [last])).length := by
    rw [length_writeBytes _ _ (six_le_of_reply ha), List.length_append (bs := busies ++ [last]), List.length_append (bs := echo ++ [resp]),
      List.length_append (as := echo), hecho]
    rfl
  have hrun := run_writeRecord_of_ready ha (Block.hears_of_script hd' hlen) (ok := true) hecho fun b1 hb => by
      rw [if_pos ((respAccepted_iff _ resp).mpr hresp), busyTries, if_neg (by rw [hign]; exact Bool.false_ne_true),
        run_busyPoll_of_ready hbusies hlast hmax hb]
  rw [exec_stoWrite, complete]
  refine done_eq_next ?_
  rw [run_stoWriteProg_of_room _ he hroom, hrun]
  have hbytes : writeBytes s.blk.cfg s.blk (frame ++ polls ++ [s.blk.cfg.answers.ready]).length (busies ++ [last]).length
      = frameBytes s.blk.cfg ⟨0x18#6, s.blk.sto.nextBlock, 0x00#8⟩ ++ List.replicate (polls.length + 1) s.blk.cfg.answers.filler
        ++ [s.blk.cfg.answers.dataToken] ++ recordImage s.blk ++ List.replicate (busies.length + 4) s.blk.cfg.answers.filler := by
    have hn : (frame ++ polls ++ [s.blk.cfg.answers.ready]).length - 6 = polls.length + 1 := by
      rw [List.length_append, List.length_append, hans.1, Nat.add_assoc, Nat.add_sub_cancel_left]
      rfl
    have hfillers : [s.blk.cfg.answers.filler, s.blk.cfg.answers.filler] ++ ([s.blk.cfg.answers.filler]
        ++ List.replicate (busies ++ [last]).length s.blk.cfg.answers.filler) = List.replicate (busies.length + 4) s.blk.cfg.answers.filler := by
      simp [List.replicate_succ]
    rw [writeBytes, sentFor, hn]
    simp only [dataPhase, streamed_eq_recordImage hok, List.append_assoc, hfillers]
    rfl
  rw [hbytes]
  rfl

end Sys2Proof.Machine
end

section
/-!
SUPPORT. The reference device's answers (`48_storage.md` rule R310): a frame is answered with fillers, then what the command put into
the queue comes out while fillers are sent.
-/

namespace Sys2Proof.Machine

theorem Block.hears_cons {b : Block} {v r : Byte} {vs bs : List Byte} {d d' : Device}
    (hex : deviceExchange b.cfg v (v :: b.env.spiSent) b.env.device = (r, d)) (rest : (b.spoke d [v]).Hears vs bs d') :
    b.Hears (v :: vs) (r :: bs) d' := by
  have h := Block.Hears.cons (b := b) (v := v) (bs := bs) (d' := d') (vs := vs) (by rwa [hex])
  rwa [hex] at h

theorem deviceExchange_reference (c : Config) (v : Byte) (sent : List Byte) (d : RefDevice) :
    deviceExchange c v sent (.reference d) = (d.queue.headD 0xFF#8, .reference (refTake c v { d with queue := d.queue.tail })) := rfl

/-- A byte other than the first of a frame continues it, the sixth closes it. -/
theorem refTake_of_open {c : Config} {d : RefDevice} (hrecv : d.recv = .off) (hframe : d.frame ≠ []) (v : Byte) :
    refTake c v d = if d.frame.length < 5 then { d with frame := d.frame ++ [v] }
      else refCommand c { d with frame := [] } (d.frame ++ [v]) := by
  unfold refTake refFrame
  rw [hrecv]
  dsimp only
  split
  · next h => exact absurd h hframe
  · rfl

/-- With nothing queued the answer is the filler of R310. -/
theorem deviceExchange_of_noQueue (c : Config) (v : Byte) (sent : List Byte) {d : RefDevice} (h : d.queue = []) :
    deviceExchange c v sent (.reference d) = (0xFF#8, .reference (refTake c v d)) := by
  cases d
  subst h
  rfl

/-- The rest of a frame is taken without an answer, and then the command is performed. -/
theorem Block.hears_frameRest {b : Block} {d : RefDevice} (hd : b.env.device = .reference d) (hqueue : d.queue = []) (hrecv : d.recv = .off)
    (hframe : d.frame ≠ []) (v : Byte) (vs : List Byte) (hlen : d.frame.length + (vs.length + 1) = 6) :
    b.Hears (v :: vs) (List.replicate (vs.length + 1) 0xFF#8)
      (.reference (refCommand b.cfg { d with frame := [] } (d.frame ++ v :: vs))) := by
  induction vs generalizing b d v with
  | nil =>
    refine Block.hears_cons (hd ▸ deviceExchange_of_noQueue _ _ _ hqueue) ?_
    rw [refTake_of_open hrecv hframe, if_neg (by rw [List.length_nil] at hlen; omega)]
    exact .nil _
  | cons w vs ih =>
    rw [List.length_cons] at hlen
    refine Block.hears_cons (hd ▸ deviceExchange_of_noQueue _ _ _ hqueue) ?_
    rw [refTake_of_open hrecv hframe, if_pos (by omega)]
    have hrest := ih (b := b.spoke (.reference { d with frame := d.frame ++ [v] }) [v]) (d := { d with frame := d.frame ++ [v] }) rfl hqueue
      hrecv (by simp) w (by simp only [List.length_append, List.length_singleton]; omega)
    simp only [List.append_assoc, List.singleton_append] at hrest
    exact hrest

theorem cmdByte_open (cmd : BitVec 6) : (0x40#8 ||| cmd.zeroExtend 8) &&& 0xC0#8 = 0x40#8 := by
  revert cmd
  decide

/-- A quiet device takes a frame and performs its command. -/
theorem Block.hears_frame {b : Block} {d : RefDevice} (hd : b.env.device = .reference d) (hq : quiet d) {c : Config}
    (hheader : c.cmdHeader = 0x40#8) (f : CmdFrame) :
    b.Hears (frameBytes c f) (List.replicate 6 0xFF#8) (.reference (refCommand b.cfg d (frameBytes c f))) := by
  obtain ⟨hqueue, hframe, hrecv⟩ := hq
  have hopen : refTake b.cfg (cmdByte c f.cmd) d = { d with frame := [cmdByte c f.cmd] } := by
    unfold refTake refFrame
    rw [hrecv, hframe]
    dsimp only
    rw [cmdByte, hheader, if_pos (cmdByte_open f.cmd)]
  have hrest := Block.hears_frameRest (b := b.spoke (.reference { d with frame := [cmdByte c f.cmd] }) [cmdByte c f.cmd]) rfl hqueue hrecv
    (List.cons_ne_nil _ _) (byteOf f.arg 3) [byteOf f.arg 2, byteOf f.arg 1, byteOf f.arg 0, f.trail] rfl
  have hclosed : ({ d with frame := [] } : RefDevice) = d := by
    cases d
    subst hframe
    rfl
  refine Block.hears_cons (hd ▸ deviceExchange_of_noQueue _ _ _ hqueue) ?_
  rw [hopen]
  change Block.Hears _ _ _ (.reference (refCommand b.cfg { d with frame := [] } _)) at hrest
  rwa [hclosed] at hrest

/-- What is queued comes out while fillers are sent. -/
theorem Block.hears_queue {b : Block} {d : RefDevice} {q : List Byte} (hd : b.env.device = .reference (refAnswer q d)) (hq : quiet d) :
    b.Hears (List.replicate q.length 0xFF#8) q (.reference d) := by
  obtain ⟨hqueue, hframe, hrecv⟩ := hq
  induction q generalizing b with
  | nil =>
    rw [refAnswer, List.append_nil] at hd
    exact Block.hears_nil_iff.mpr ⟨rfl, hd.symm⟩
  | cons r q ih =>
    refine Block.hears_cons (d := .reference (refAnswer q d)) ?_ (ih rfl)
    rw [hd, deviceExchange_reference]
    simp only [refAnswer, hqueue, List.nil_append, List.headD_cons, List.tail_cons, refTake, hrecv, refFrame, hframe]
    rfl

/-- A quiet device answers a command with fillers for its frame and then what the command queues. -/
theorem Block.answers_of_reference {b : Block} {d d' : RefDevice} {q : List Byte} (hd : b.env.device = .reference d) (hq : quiet d)
    {c : Config} (hheader : c.cmdHeader = 0x40#8) (hfiller : c.answers.filler = 0xFF#8) (f : CmdFrame)
    (hcmd : refCommand b.cfg d (frameBytes c f) = refAnswer q d') (hq' : quiet d') :
    b.Answers c f (List.replicate 6 0xFF#8 ++ q) (.reference d') := by
  have hframe := Block.hears_frame hd hq hheader f
  rw [hcmd] at hframe
  rw [Block.Answers, sentFor, List.length_append, List.length_replicate, Nat.add_sub_cancel_left, hfiller]
  exact (Block.hears_append (length_frameBytes c f)).mpr ⟨_, hframe, Block.hears_queue rfl hq'⟩

/-! ## The commands -/

section
variable (c cfg : Config) (d : RefDevice) (hheader : c.cmdHeader = 0x40#8)
include hheader

theorem refCommand_reset : refCommand cfg d (frameBytes c frameReset) = refAnswer [0x01#8] { d with idle := true } := by
  rw [frameBytes, cmdByte, hheader]
  rfl

theorem refCommand_ifcond : refCommand cfg d (frameBytes c frameIfcond) = refAnswer [0x01#8, 0x00#8, 0x00#8, 0x01#8, 0xAA#8] d := by
  rw [frameBytes, cmdByte, hheader]
  rfl

theorem refCommand_app : refCommand cfg d (frameBytes c frameApp) = refAnswer [if d.idle then 0x01#8 else 0x00#8] d := by
  rw [frameBytes, cmdByte, hheader]
  rfl

theorem refCommand_opcond : refCommand cfg d (frameBytes c frameOpcond) =
    if 0 < d.warm then refAnswer [0x01#8] { d with warm := d.warm - 1 } else refAnswer [0x00#8] { d with idle := false } := by
  rw [frameBytes, cmdByte, hheader]
  rfl

theorem refCommand_readocr : refCommand cfg d (frameBytes c frameReadocr) = refAnswer (0x00#8 :: d.ocr) d := by
  rw [frameBytes, cmdByte, hheader]
  rfl

theorem refCommand_readcsd : refCommand cfg d (frameBytes c frameReadcsd) =
    refAnswer ([0x00#8, 0xFF#8, 0xFE#8] ++ d.csd ++ [0x00#8, 0x00#8]) d := by
  rw [frameBytes, cmdByte, hheader]
  rfl

theorem refCommand_readblk {addr : U32} (ha : addr.toNat < d.nb) : refCommand cfg d (frameBytes c (frameReadblk addr)) =
    refAnswer ([0x00#8, 0xFF#8, 0xFE#8] ++ refBlock cfg d addr.toNat ++ [0x00#8, 0x00#8]) d := by
  have hread : refCommand cfg d (frameBytes c (frameReadblk addr)) =
      if (ofBe32 (byteOf addr 3) (byteOf addr 2) (byteOf addr 1) (byteOf addr 0)).toNat < d.nb then
        refAnswer ([0x00#8, 0xFF#8, 0xFE#8]
          ++ refBlock cfg d (ofBe32 (byteOf addr 3) (byteOf addr 2) (byteOf addr 1) (byteOf addr 0)).toNat ++ [0x00#8, 0x00#8]) d
      else refAnswer [0x40#8] d := by
    have hindex : ((0x40#8 ||| (0x11#6).zeroExtend 8) &&& 0x3F#8).toNat = 0x11 := rfl
    rw [frameBytes, cmdByte, hheader, frameReadblk, be32]
    simp only [refCommand, List.cons_append, hindex]
  rw [hread, ofBe32_byteOf, if_pos ha]

end

/-! ## Its answers as those of R278 and R288 -/

section
variable {c : Config} (hok : c.ok = true) (hans : c.answers = standardAnswers)
include hok

theorem respRetryMax_pos_of_ok : 0 < c.respRetryMax := by
  simp only [Config.ok, Config.okRetries, Bool.and_eq_true, decide_eq_true_eq] at hok
  omega

/-- The first byte queued is the answer, when it is one. -/
theorem reply_of_reference {r : Byte} (hr : r.msb = false) : reply c (some r) (List.replicate 6 0xFF#8 ++ [r]) :=
  ⟨List.replicate 6 0xFF#8, [], ⟨rfl, nofun, respRetryMax_pos_of_ok hok, hr⟩, by rw [List.append_nil]⟩

include hans in
/-- A block answered is one filler, the token, the data and two bytes. -/
theorem blockReply_of_reference (htoken : 2 ≤ c.tokenRetryMax) (data : List Byte) :
    blockReply c data (List.replicate 6 0xFF#8 ++ ([0x00#8, 0xFF#8, 0xFE#8] ++ data ++ [0x00#8, 0x00#8])) := by
  have hready : c.answers.ready = 0x00#8 := by rw [hans]; rfl
  have hdata : c.answers.dataToken = 0xFE#8 := by rw [hans]; rfl
  have hfiller : c.answers.filler = 0xFF#8 := by rw [hans]; rfl
  refine ⟨_, [0xFF#8], [0x00#8, 0x00#8], reply_of_reference hok (r := c.answers.ready) (by rw [hready]; rfl), ⟨?_, htoken, ?_⟩, rfl, ?_⟩
  · rw [hfiller]
    simp
  · rw [hdata, hfiller]
    decide
  · rw [hready, hdata]
    simp

end

end Sys2Proof.Machine
end

section
/-!
SUPPORT. The search for the first free block (`48_storage.md` rules R291 to R294).
-/

namespace Sys2Proof.Machine

/-! ## Probes -/

/-- What block reads leave: the device deselected, and of the registers only `lead` changed. -/
structure Searched (b b' : Block) : Prop where
  cfg : b'.cfg = b.cfg
  sto : b'.sto = { b.sto with cs := false, lead := b'.sto.lead }
  lead : b'.sto.lead.length = 4

theorem Searched.trans {b b' b'' : Block} (h : Searched b b') (h' : Searched b' b'') : Searched b b'' where
  cfg := h'.cfg.trans h.cfg
  sto := by rw [h'.sto, h.sto]
  lead := h'.lead

theorem run_askBytes_lead {b : Block} (h : b.sto.lead.length = 4) : (Prog.askBytes leadByte 4 0).run b = (b.sto.lead, b) := by
  rw [Prog.run_askBytes]
  refine congrArg (·, b) (List.ext_getElem (by rw [List.length_map, List.length_range', h]) fun i hi hi' => ?_)
  rw [List.getElem_map, List.getElem_range', leadByte, List.getD_eq_getElem _ _ (by omega)]
  simp

theorem leadUsed_eq (c : Config) (l : List Byte) : leadUsed c l = decide (l = guardImage c) := by
  rw [leadUsed, Bool.eq_iff_iff, beq_iff_eq, decide_eq_true_eq]

/-- A block read that comes shows whether the block is used. -/
theorem run_probeBlock_of_reply {c : Config} (hsize : 4 ≤ c.blockSize) {data bs : List Byte} (a : Nat) (hr : blockReply c data bs)
    (hdata : data.length = c.blockSize) {b : Block} {d' : Device} (hlead : b.sto.lead.length = 4)
    (h : b.Answers c (frameReadblk (BitVec.ofNat 32 a)) bs d') :
    (probeBlock c a).run b = (some (decide (data.take 4 = guardImage c)), Block.spoke d'
      (sentFor c (frameReadblk (BitVec.ofNat 32 a)) bs.length) { b with sto := { b.sto with cs := false, lead := data.take 4 } }) := by
  rw [probeBlock, Prog.run_bind, run_readBlock_of_reply _ hr hdata hsize hlead h]
  dsimp only
  rw [if_pos rfl, Prog.run_bind, run_askBytes_lead (by change (data.take 4).length = 4; rw [List.length_take]; omega), Prog.run_ret,
    leadUsed_eq]
  rfl

theorem run_probeBlock_of_refusal {c : Config} {bs : List Byte} (a : Nat) (hr : blockRefusal c bs) {b : Block} {d' : Device}
    (h : b.Answers c (frameReadblk (BitVec.ofNat 32 a)) bs d') :
    (probeBlock c a).run b = (none, Block.spoke d' (sentFor c (frameReadblk (BitVec.ofNat 32 a)) bs.length)
      { b with sto := { b.sto with cs := false, lead := freshBytes b 4 }, fresh := b.fresh + 4 }) := by
  rw [probeBlock, Prog.run_bind, run_readBlock_of_refusal _ hr h]
  rfl

/-! ## The search as a whole -/

theorem run_searchWith_of_free {probe : Nat → Prog (Option Bool)} (cap : Nat) {b b' : Block} (h : (probe 0).run b = (some false, b')) :
    (searchWith probe cap).run b = (some 0, b') := by
  rw [searchWith, Prog.run_bind, h]
  rfl

theorem run_searchWith_of_used {probe : Nat → Prog (Option Bool)} {cap : Nat} {b b' b'' : Block} {k : Option Nat}
    (h : (probe 0).run b = (some true, b')) (h' : (bisect probe 32 0 cap).run b' = (k, b'')) :
    (searchWith probe cap).run b = (k.map fun hi => if hi = cap then 0 else hi, b'') := by
  rw [searchWith, Prog.run_bind, h]
  dsimp only
  rw [Prog.run_bind, h']
  cases k <;> rfl

theorem run_searchWith_of_failed {probe : Nat → Prog (Option Bool)} (cap : Nat) {b b' : Block} (h : (probe 0).run b = (none, b')) :
    (searchWith probe cap).run b = (none, b') := by
  rw [searchWith, Prog.run_bind, h]
  rfl

/-- A turn of the loop after a probe. -/
theorem run_bisect_of_probe {probe : Nat → Prog (Option Bool)} {fuel lo hi : Nat} (hw : 1 < hi - lo) {b b' : Block} {used : Bool}
    (h : (probe (lo + (hi - lo) / 2)).run b = (some used, b')) :
    (bisect probe (fuel + 1) lo hi).run b = (if used then bisect probe fuel (lo + (hi - lo) / 2) hi
      else bisect probe fuel lo (lo + (hi - lo) / 2)).run b' := by
  rw [bisect, if_pos hw, Prog.run_bind, h]
  cases used <;> rfl

theorem run_bisect_of_failed {probe : Nat → Prog (Option Bool)} {fuel lo hi : Nat} (hw : 1 < hi - lo) {b b' : Block}
    (h : (probe (lo + (hi - lo) / 2)).run b = (none, b')) : (bisect probe (fuel + 1) lo hi).run b = (none, b') := by
  rw [bisect, if_pos hw, Prog.run_bind, h]
  rfl

theorem run_findBlock_of_some {c : Config} {b b' : Block} {k : Nat}
    (h : (searchWith (probeBlock c) b.sto.capacityBlocks.toNat).run b = (some k, b')) : (findBlock c).run b = (some k, b') := by
  rw [findBlock, Prog.run_bind, run_readReg, Prog.run_bind, capacityReg_get, h]
  rfl

theorem run_findBlock_of_none {c : Config} {b b' : Block}
    (h : (searchWith (probeBlock c) b.sto.capacityBlocks.toNat).run b = (none, b')) : (findBlock c).run b = (none, setEnabled false b') := by
  rw [findBlock, Prog.run_bind, run_readReg, Prog.run_bind, capacityReg_get, h]
  rfl

/-! ## A read that fails -/

/-- The bounds of R292 after a midpoint whose block begins as in `d`. -/
def searchTurn (c : Config) (r : Nat × Nat) (d : List Byte) : Nat × Nat :=
  if d.take 4 = guardImage c then (r.1 + (r.2 - r.1) / 2, r.2) else (r.1, r.1 + (r.2 - r.1) / 2)

theorem searchWidth_eq (c : Config) (cap : Nat) (datas : List (List Byte)) :
    searchWidth c cap datas = (datas.foldl (searchTurn c) (0, cap)).2 - (datas.foldl (searchTurn c) (0, cap)).1 := rfl

/-- A turn halves the width. -/
theorem searchTurn_width (c : Config) (r : Nat × Nat) (d : List Byte) :
    (searchTurn c r d).2 - (searchTurn c r d).1 ≤ r.2 - r.1 - (r.2 - r.1) / 2 := by
  unfold searchTurn
  split <;> dsimp only <;> omega

theorem foldl_searchTurn_width (c : Config) (ds : List (List Byte)) (r : Nat × Nat) :
    (ds.foldl (searchTurn c) r).2 - (ds.foldl (searchTurn c) r).1 ≤ r.2 - r.1 := by
  induction ds generalizing r with
  | nil => exact Nat.le_refl _
  | cons d ds ih => exact (ih _).trans ((searchTurn_width c r d).trans (Nat.sub_le _ _))

/-- A failed probe on a script. -/
theorem probeBlock_fails {c : Config} {bad rest : List Byte} (hbad : blockRefusal c bad) (a : Nat) {b : Block}
    (hd : b.env.device = .script (bad ++ rest)) :
    ∃ b', (probeBlock c a).run b = (none, b') ∧ Searched b b' ∧ b'.env.device = .script rest :=
  ⟨_, run_probeBlock_of_refusal a hbad (Block.answers_of_script c _ hd (six_le_of_blockRefusal hbad)), ⟨rfl, rfl, rfl⟩, rfl⟩

/-- A probe that succeeds on a script. -/
theorem probeBlock_passes {c : Config} (hsize : 4 ≤ c.blockSize) {data bs rest : List Byte} (hr : blockReply c data bs)
    (hdata : data.length = c.blockSize) (a : Nat) {b : Block} (hlead : b.sto.lead.length = 4) (hd : b.env.device = .script (bs ++ rest)) :
    ∃ b', (probeBlock c a).run b = (some (decide (data.take 4 = guardImage c)), b') ∧ Searched b b' ∧ b'.env.device = .script rest :=
  ⟨_, run_probeBlock_of_reply hsize a hr hdata hlead (Block.answers_of_script c _ hd (six_le_of_blockReply hr)),
    ⟨rfl, rfl, by change (data.take 4).length = 4; rw [List.length_take]; omega⟩, rfl⟩

/-- The loop makes the reads whose width is above one, so it meets the one that fails. -/
theorem bisect_fails {c : Config} (hsize : 4 ≤ c.blockSize) {datas good : List (List Byte)} {bad rest : List Byte}
    (hgood : List.Forall₂ (blockReply c) datas good) (hdatas : ∀ d ∈ datas, d.length = c.blockSize) (hbad : blockRefusal c bad)
    {fuel lo hi : Nat} (hfuel : hi - lo ≤ 2 ^ fuel)
    (hw : 1 < (datas.foldl (searchTurn c) (lo, hi)).2 - (datas.foldl (searchTurn c) (lo, hi)).1) {b : Block}
    (hlead : b.sto.lead.length = 4) (hd : b.env.device = .script (good.flatten ++ bad ++ rest)) :
    ∃ b', (bisect (probeBlock c) fuel lo hi).run b = (none, b') ∧ Searched b b' ∧ b'.env.device = .script rest := by
  induction hgood generalizing fuel lo hi b with
  | nil =>
    obtain ⟨fuel, rfl⟩ : ∃ n, fuel = n + 1 := ⟨fuel - 1, by
      cases fuel with
      | zero => exact absurd hw (by simp only [List.foldl_nil]; omega)
      | succ n => rfl⟩
    obtain ⟨b', hprobe, hs, hd'⟩ := probeBlock_fails hbad (lo + (hi - lo) / 2) (rest := rest) (by simpa using hd)
    exact ⟨b', run_bisect_of_failed hw hprobe, hs, hd'⟩
  | @cons data bs datas good hr hgood ih =>
    have hwidth : 1 < hi - lo := hw.trans_le (foldl_searchTurn_width c _ (lo, hi))
    obtain ⟨fuel, rfl⟩ : ∃ n, fuel = n + 1 := ⟨fuel - 1, by
      cases fuel with
      | zero => exact absurd hwidth (by omega)
      | succ n => rfl⟩
    obtain ⟨b1, hprobe, hs, hd1⟩ := probeBlock_passes hsize hr (hdatas data (by simp)) (lo + (hi - lo) / 2) hlead
      (rest := good.flatten ++ bad ++ rest) (by simpa using hd)
    have hturn := searchTurn_width c (lo, hi) data
    rw [List.foldl_cons] at hw
    obtain ⟨b2, hrest, hs', hd2⟩ := ih (fun d hd => hdatas d (by simp [hd])) (fuel := fuel)
      (lo := (searchTurn c (lo, hi) data).1) (hi := (searchTurn c (lo, hi) data).2) (by rw [pow_succ] at hfuel; dsimp only at hturn; omega)
      hw hs.lead hd1
    refine ⟨b2, ?_, hs.trans hs', hd2⟩
    rw [run_bisect_of_probe hwidth hprobe, ← hrest]
    unfold searchTurn
    by_cases hused : data.take 4 = guardImage c <;> simp only [hused, decide_true, decide_false, if_true, if_false, Bool.false_eq_true]

/-- A search in which a read fails disables the storage. -/
theorem findBlock_fails {c : Config} (hok : c.ok = true) {b : Block} {bs rest : List Byte} (hlead : b.sto.lead.length = 4)
    (hr : searchRefusal c b.sto.capacityBlocks.toNat bs) (hd : b.env.device = .script (bs ++ rest)) :
    ∃ b', (findBlock c).run b = (none, setEnabled false b') ∧ Searched b b' ∧ b'.env.device = .script rest := by
  obtain ⟨datas, good, bad, hgood, hdatas, hbad, rfl, hused⟩ := hr
  cases hgood with
  | nil =>
    obtain ⟨b', hprobe, hs, hd'⟩ := probeBlock_fails hbad 0 (rest := rest) (by simpa using hd)
    exact ⟨b', run_findBlock_of_none (run_searchWith_of_failed _ hprobe), hs, hd'⟩
  | @cons data bs datas good hr hgood =>
    obtain ⟨hguard, hw⟩ := hused data datas rfl
    have hsize := four_le_blockSize hok
    obtain ⟨b1, hprobe, hs, hd1⟩ := probeBlock_passes hsize hr (hdatas data (by simp)) 0 hlead
      (rest := good.flatten ++ bad ++ rest) (by simpa using hd)
    rw [decide_eq_true hguard] at hprobe
    have hfuel := b.sto.capacityBlocks.isLt
    obtain ⟨b2, hrest, hs', hd2⟩ := bisect_fails hsize hgood (fun d hd => hdatas d (by simp [hd])) hbad (fuel := 32) (by omega)
      (searchWidth_eq c _ _ ▸ hw) hs.lead hd1
    exact ⟨b2, run_findBlock_of_none (run_searchWith_of_used hprobe hrest), hs.trans hs', hd2⟩

/-! ## On the reference device -/

/-- A quiet reference device with the blocks 0 to `k-1` of `cap` used, and a configuration that speaks to it. -/
structure RefSearch (c : Config) (d : RefDevice) (cap k : Nat) : Prop where
  ok : c.ok = true
  answers : c.answers = standardAnswers
  header : c.cmdHeader = 0x40#8
  token : 2 ≤ c.tokenRetryMax
  quiet : Machine.quiet d
  lt : cap < 2 ^ 32
  le : cap ≤ d.nb
  used : ∀ a, a < cap → ((refBlock c d a).take 4 = guardImage c ↔ a < k)

/-- The block after `n` block reads from the device. -/
structure ReadFrom (d : RefDevice) (n : Nat) (b b' : Block) : Prop extends Searched b b' where
  device : b'.env.device = .reference d
  sent : b'.env.spiSent.length = b.env.spiSent.length + n * (b.cfg.blockSize + 11)

theorem ReadFrom.trans {d : RefDevice} {n m : Nat} {b b' b'' : Block} (h : ReadFrom d n b b') (h' : ReadFrom d m b' b'') :
    ReadFrom d (n + m) b b'' where
  toSearched := h.toSearched.trans h'.toSearched
  device := h'.device
  sent := by rw [h'.sent, h.sent, h.cfg, Nat.add_mul, Nat.add_assoc]

section
variable {c : Config} {d : RefDevice} {cap k : Nat} (hs : RefSearch c d cap k)
include hs

/-- A probe reads one block. -/
theorem RefSearch.run_probeBlock {a : Nat} (ha : a < cap) {b : Block} (hc : b.cfg = c) (hd : b.env.device = .reference d)
    (hlead : b.sto.lead.length = 4) : ∃ b', (probeBlock c a).run b = (some (decide (a < k)), b') ∧ ReadFrom d 1 b b' := by
  subst hc
  have hlt := hs.lt
  have hle := hs.le
  have haddr : (BitVec.ofNat 32 a).toNat = a := by rw [BitVec.toNat_ofNat, Nat.mod_eq_of_lt (by omega)]
  have hcmd := refCommand_readblk b.cfg b.cfg d hs.header (addr := BitVec.ofNat 32 a) (by omega)
  rw [haddr] at hcmd
  have hanswers := Block.answers_of_reference hd hs.quiet hs.header (by rw [hs.answers]; rfl) _ hcmd hs.quiet
  have hlen : (refBlock b.cfg d a).length = b.cfg.blockSize := length_memReadList _ _ _
  have hrun := run_probeBlock_of_reply (four_le_blockSize hs.ok) a (blockReply_of_reference hs.ok hs.answers hs.token _) hlen hlead hanswers
  rw [decide_eq_decide.mpr (hs.used a ha)] at hrun
  refine ⟨_, hrun, ⟨rfl, rfl, ?_⟩, rfl, ?_⟩
  · change ((refBlock b.cfg d a).take 4).length = 4
    have := four_le_blockSize hs.ok
    rw [List.length_take, hlen]
    omega
  · rw [Block.spoke, List.length_append, List.length_reverse, length_sentFor b.cfg _ (six_le_of_blockReply
      (blockReply_of_reference hs.ok hs.answers hs.token _))]
    simp only [List.length_append, List.length_replicate, List.length_cons, List.length_nil, hlen]
    omega

/-- The loop halves the width until the bounds enclose the first free block. -/
theorem RefSearch.run_bisect {fuel lo hi : Nat} (hlo : lo < k) (hk : k ≤ hi) (hhi : hi ≤ cap) (hfuel : hi - lo ≤ 2 ^ fuel) {b : Block}
    (hc : b.cfg = c) (hd : b.env.device = .reference d) (hlead : b.sto.lead.length = 4) (hcs : b.sto.cs = false) :
    ∃ n b', (bisect (probeBlock c) fuel lo hi).run b = (some k, b') ∧ n ≤ Nat.clog 2 (hi - lo) ∧ ReadFrom d n b b' := by
  induction fuel generalizing lo hi b with
  | zero =>
    obtain rfl : k = hi := by omega
    exact ⟨0, b, rfl, Nat.zero_le _, ⟨rfl, by rw [← hcs], hlead⟩, hd, by rw [Nat.zero_mul, Nat.add_zero]⟩
  | succ fuel ih =>
    by_cases hw : 1 < hi - lo
    · obtain ⟨b1, hprobe, hread⟩ := hs.run_probeBlock (a := lo + (hi - lo) / 2) (by omega) hc hd hlead
      have hcs1 : b1.sto.cs = false := by rw [hread.sto]
      rw [run_bisect_of_probe hw hprobe]
      have hclog : Nat.clog 2 (hi - lo) = Nat.clog 2 ((hi - lo + 1) / 2) + 1 := Nat.clog_of_two_le (by omega) hw
      rw [pow_succ] at hfuel
      by_cases hmid : lo + (hi - lo) / 2 < k
      · obtain ⟨n, b2, hrun, hn, hread'⟩ := ih hmid hk hhi (by omega) (hread.cfg.trans hc) hread.device hread.lead hcs1
        rw [show hi - (lo + (hi - lo) / 2) = (hi - lo + 1) / 2 by omega] at hn
        exact ⟨1 + n, b2, by rw [if_pos (decide_eq_true hmid), hrun], by omega, hread.trans hread'⟩
      · obtain ⟨n, b2, hrun, hn, hread'⟩ := ih hlo (Nat.not_lt.mp hmid) (by omega) (by omega) (hread.cfg.trans hc) hread.device
          hread.lead hcs1
        have hle : n ≤ Nat.clog 2 ((hi - lo + 1) / 2) := hn.trans (Nat.clog_mono_right 2 (by omega))
        exact ⟨1 + n, b2, by rw [if_neg (by simpa using hmid), hrun], by omega, hread.trans hread'⟩
    · obtain rfl : k = hi := by omega
      exact ⟨0, b, by rw [bisect, if_neg hw]; rfl, Nat.zero_le _, ⟨rfl, by rw [← hcs], hlead⟩, hd, by rw [Nat.zero_mul, Nat.add_zero]⟩

/-- The search finds the first free block, or says 0 when there is none (R293, R294). -/
theorem RefSearch.run_findBlock (hpos : 0 < cap) (hk : k ≤ cap) {b : Block} (hc : b.cfg = c) (hd : b.env.device = .reference d)
    (hlead : b.sto.lead.length = 4) (hcap : b.sto.capacityBlocks.toNat = cap) :
    ∃ n b', (findBlock c).run b = (some (if k < cap then k else 0), b') ∧ n ≤ Nat.clog 2 cap + 1 ∧ ReadFrom d n b b' := by
  obtain ⟨b1, hprobe, hread⟩ := hs.run_probeBlock hpos hc hd hlead
  subst hcap
  cases k with
  | zero => exact ⟨1, b1, by rw [ite_self]; exact run_findBlock_of_some (run_searchWith_of_free _ hprobe), by omega, hread⟩
  | succ k =>
    have hlt := hs.lt
    obtain ⟨n, b2, hrun, hn, hread'⟩ := hs.run_bisect (fuel := 32) (Nat.succ_pos k) hk (Nat.le_refl _) (by omega) (hread.cfg.trans hc)
      hread.device hread.lead (by rw [hread.sto])
    have hsearch := run_findBlock_of_some (run_searchWith_of_used hprobe hrun)
    have hfound : (if k + 1 = b.sto.capacityBlocks.toNat then 0 else k + 1) = if k + 1 < b.sto.capacityBlocks.toNat then k + 1 else 0 := by
      split <;> split <;> omega
    dsimp only at hsearch
    rw [hfound] at hsearch
    exact ⟨1 + n, b2, hsearch, by rw [Nat.sub_zero] at hn; omega, hread.trans hread'⟩

end

/-- Settles O56: the search on the reference device, and on a script in which a read fails. -/
theorem stoFindReturnsFirstFreeBlock : Obligations.StoFindReturnsFirstFreeBlock := by
  unfold Obligations.StoFindReturnsFirstFreeBlock
  refine ⟨fun s d k hok hans hheader htoken hlead hd hq hpos hle hk hused => ?_, fun s bs rest hok hlead hr hd => ?_⟩
  · have hs : RefSearch s.blk.cfg d s.blk.sto.capacityBlocks.toNat k :=
      ⟨hok, hans, hheader, htoken, hq, s.blk.sto.capacityBlocks.isLt, hle, hused⟩
    obtain ⟨n, b', hrun, hn, hread⟩ := hs.run_findBlock hpos hk rfl hd hlead rfl
    refine ⟨_, done_setRet_of_run (p := findBlock) (g := fun k => .word (k.map (BitVec.ofNat 32))) hrun, rfl, hread.device, ?_, ?_⟩
    · change b'.sto.cs = false
      rw [hread.sto]
    · exact hread.sent.trans_le (Nat.add_le_add_left (Nat.mul_le_mul_right _ hn) _)
  · obtain ⟨b', hrun, hs, hd'⟩ := findBlock_fails hok hlead hr hd
    refine ⟨_, done_setRet_of_run (p := findBlock) (g := fun k => .word (k.map (BitVec.ofNat 32))) hrun, rfl, hd', ?_⟩
    change { b'.sto with enabled := false } = _
    rw [hs.sto]
    rfl

end Sys2Proof.Machine
end

section
/-!
SUPPORT. The steps of `STO.INIT` on known answers (`48_storage.md` rules R279 to R285).
-/

namespace Sys2Proof.Machine

/-- What a step that fills no buffer leaves: of the registers only the chip select changed, and the device is `d`. -/
structure Conversed (d : Device) (b b' : Block) : Prop where
  cfg : b'.cfg = b.cfg
  sto : b'.sto = { b.sto with cs := b'.sto.cs }
  device : b'.env.device = d

theorem Conversed.trans {d d' : Device} {b b' b'' : Block} (h : Conversed d b b') (h' : Conversed d' b' b'') : Conversed d' b b'' where
  cfg := h'.cfg.trans h.cfg
  sto := by rw [h'.sto, h.sto]
  device := h'.device

/-- A step that passes goes on, one that does not ends the operation with the device deselected. -/
theorem run_orFail {step : Prog Bool} {ok : Bool} {b b' : Block} (next : Prog Unit) (h : step.run b = (ok, b')) :
    (orFail step next).run b = if ok then next.run b' else ((), setCs false b') := by
  rw [orFail, Prog.run_bind, h]
  cases ok <;> rfl

theorem run_bind_ret {p : Prog α} {a : α} {b b' : Block} (f : α → β) (h : p.run b = (a, b')) :
    (p.bind fun a => .ret (f a)).run b = (f a, b') := by
  rw [Prog.run_bind, h, Prog.run_ret]

theorem wordOf_getLsbD (o : List Byte) : (wordOf o).getLsbD 30 = (o.getD 0 0#8).getLsbD 6 := by
  simp only [wordOf, ofBe32, BitVec.getLsbD_append]
  rfl

section
variable {c : Config} {b : Block} {d' : Device}

theorem run_commandAlone_conversed {f : CmdFrame} {r : Option Byte} {bs : List Byte} (hr : reply c r bs) (h : b.Answers c f bs d') :
    ∃ b', (commandAlone c f).run b = (r, b') ∧ Conversed d' b b' := ⟨_, run_commandAlone hr h, rfl, rfl, rfl⟩

/-- The reset command passes when the device says "idle" (R279). -/
theorem run_resetStep {r : Option Byte} {bs : List Byte} (hr : reply c r bs) (h : b.Answers c frameReset bs d') :
    ∃ b', ((commandAlone c frameReset).bind fun r => .ret (decide (r = some c.answers.idle))).run b = (decide (r = some c.answers.idle), b')
      ∧ Conversed d' b b' := by
  obtain ⟨b', hrun, hb⟩ := run_commandAlone_conversed hr h
  exact ⟨b', run_bind_ret (fun r => decide (r = some c.answers.idle)) hrun, hb⟩

/-- The interface condition passes when the echo is right (R280). -/
theorem run_ifcondStep {a e : List Byte} (hr : reply c (some c.answers.idle) a) (he : e.length = 4)
    (h : b.Answers c frameIfcond (a ++ e) d') :
    ∃ b', (cmdIfcond c).run b = (decide (e.getD 2 0#8 = 0x01#8 ∧ e.getD 3 0#8 = 0xAA#8), b') ∧ Conversed d' b b' := by
  rw [Bool.decide_and]
  exact ⟨_, run_cmdIfcond_of_echo hr he h, rfl, rfl, rfl⟩

/-- The device's register says whether it is block-addressed (R283, R284). -/
theorem run_readocrStep {a o : List Byte} (hr : reply c (some c.answers.ready) a) (ho : o.length = 4)
    (h : b.Answers c frameReadocr (a ++ o) d') :
    ∃ b', ((cmdReadocr c).bind fun o => .ret (blockAddressed o)).run b = ((o.getD 0 0#8).getLsbD 6, b') ∧ Conversed d' b b' :=
  ⟨_, (run_bind_ret blockAddressed (run_cmdReadocr_of_word hr ho h)).trans (congrArg (·, _) (wordOf_getLsbD o)), rfl, rfl, rfl⟩

/-! ## The rounds of step 3 -/

/-- One round, by the answers of its two commands (R281, R282). -/
theorem run_opcondLoop_succ {n : Nat} {a : Byte} {r : Option Byte} {b1 b2 : Block} (ha : a = c.answers.idle ∨ a = c.answers.ready)
    (happ : (commandAlone c frameApp).run b = (some a, b1)) (hop : (commandAlone c frameOpcond).run b1 = (r, b2)) :
    (opcondLoop c (n + 1)).run b = (if r = some c.answers.ready then .ret true else if r = some c.answers.idle then opcondLoop c n
      else .ret false).run b2 := by
  rw [opcondLoop, Prog.run_bind, happ]
  dsimp only
  rw [if_pos (ha.imp (congrArg some) (congrArg some)), Prog.run_bind, hop]

theorem run_opcondLoop_of_refused {n : Nat} {r : Option Byte} {b1 : Block} (hi : r ≠ some c.answers.idle) (hr : r ≠ some c.answers.ready)
    (happ : (commandAlone c frameApp).run b = (r, b1)) : (opcondLoop c (n + 1)).run b = (false, b1) := by
  rw [opcondLoop, Prog.run_bind, happ]
  dsimp only
  rw [if_neg (not_or.mpr ⟨hi, hr⟩), Prog.run_ret]

end

/-- One round on a script. -/
theorem run_opcondLoop_of_round {c : Config} {r : Option Byte} {bs rest : List Byte} (n : Nat) (hr : opcondRound c r bs) {b : Block}
    (hd : b.env.device = .script (bs ++ rest)) :
    ∃ b', (opcondLoop c (n + 1)).run b = (if r = some c.answers.ready then .ret true else if r = some c.answers.idle then opcondLoop c n
      else .ret false).run b' ∧ Conversed (.script rest) b b' := by
  obtain ⟨a, p, q, ha, hp, hq, rfl⟩ := hr
  rw [List.append_assoc] at hd
  obtain ⟨b1, happ, h1⟩ := run_commandAlone_conversed hp (Block.answers_of_script c frameApp hd (six_le_of_reply hp))
  obtain ⟨b2, hop, h2⟩ := run_commandAlone_conversed hq (Block.answers_of_script c frameOpcond h1.device (six_le_of_reply hq))
  exact ⟨b2, run_opcondLoop_succ ha happ hop, h1.trans h2⟩

/-- The rounds in which the device is still idle. -/
theorem run_opcondLoop_of_idle {c : Config} (hne : c.answers.idle ≠ c.answers.ready) {rounds : List (List Byte)}
    (hr : ∀ r ∈ rounds, opcondRound c (some c.answers.idle) r) (m : Nat) {rest : List Byte} {b : Block}
    (hd : b.env.device = .script (rounds.flatten ++ rest)) :
    ∃ b', (opcondLoop c (m + rounds.length)).run b = (opcondLoop c m).run b' ∧ Conversed (.script rest) b b' := by
  induction rounds generalizing b with
  | nil => exact ⟨b, rfl, rfl, rfl, hd⟩
  | cons r rounds ih =>
    rw [List.flatten_cons, List.append_assoc] at hd
    obtain ⟨b1, hrun, h1⟩ := run_opcondLoop_of_round (m + rounds.length) (hr r (by simp)) hd
    obtain ⟨b2, hrest, h2⟩ := ih (fun r h => hr r (by simp [h])) h1.device
    rw [if_neg (by simpa using hne), if_pos rfl, hrest] at hrun
    exact ⟨b2, hrun, h1.trans h2⟩

/-- The device gets ready within the rounds. -/
theorem opcondLoop_passes {c : Config} (hne : c.answers.idle ≠ c.answers.ready) {rounds : List (List Byte)} {last : List Byte}
    (hlen : rounds.length < c.opcondRetryMax) (hr : ∀ r ∈ rounds, opcondRound c (some c.answers.idle) r)
    (hlast : opcondRound c (some c.answers.ready) last) {rest : List Byte} {b : Block}
    (hd : b.env.device = .script (rounds.flatten ++ last ++ rest)) :
    ∃ b', (opcondLoop c c.opcondRetryMax).run b = (true, b') ∧ Conversed (.script rest) b b' := by
  obtain ⟨m, hm⟩ : ∃ m, c.opcondRetryMax = m + 1 + rounds.length := ⟨c.opcondRetryMax - rounds.length - 1, by omega⟩
  rw [List.append_assoc] at hd
  obtain ⟨b1, hidle, h1⟩ := run_opcondLoop_of_idle hne hr (m + 1) hd
  obtain ⟨b2, hready, h2⟩ := run_opcondLoop_of_round m hlast h1.device
  exact ⟨b2, by rw [hm, hidle, hready, if_pos rfl, Prog.run_ret], h1.trans h2⟩

/-- The device does not get ready within the rounds, or answers something else. -/
theorem opcondLoop_fails {c : Config} (hne : c.answers.idle ≠ c.answers.ready) {csd bs rest : List Byte}
    (hf : stepFails c csd .opcond bs) {b : Block} (hd : b.env.device = .script (bs ++ rest)) :
    ∃ b', (opcondLoop c c.opcondRetryMax).run b = (false, b') ∧ Conversed (.script rest) b b' := by
  obtain ⟨rounds, last, hr, rfl, ⟨hlen, rfl⟩ | ⟨hlen, r, hi, hready, hlast⟩⟩ := hf
  · rw [List.append_nil] at hd
    obtain ⟨b1, hidle, h1⟩ := run_opcondLoop_of_idle hne hr 0 hd
    rw [Nat.zero_add, hlen] at hidle
    exact ⟨b1, hidle, h1⟩
  · obtain ⟨m, hm⟩ : ∃ m, c.opcondRetryMax = m + 1 + rounds.length := ⟨c.opcondRetryMax - rounds.length - 1, by omega⟩
    rw [List.append_assoc] at hd
    obtain ⟨b1, hidle, h1⟩ := run_opcondLoop_of_idle hne hr (m + 1) hd
    rw [hm, hidle]
    obtain hrefused | hround := hlast
    · obtain ⟨b2, happ, h2⟩ := run_commandAlone_conversed hrefused (Block.answers_of_script c frameApp h1.device (six_le_of_reply hrefused))
      exact ⟨b2, run_opcondLoop_of_refused hi hready happ, h1.trans h2⟩
    · obtain ⟨b2, hrun, h2⟩ := run_opcondLoop_of_round m hround h1.device
      rw [if_neg hready, if_neg hi] at hrun
      exact ⟨b2, hrun, h1.trans h2⟩

/-! ## The capacity -/

/-- `(C_SIZE + 1) * 512` in u32 (R106). -/
def capacityWord (csd : List Byte) : U32 :=
  ((cSize [csd.getD 7 0#8, csd.getD 8 0#8, csd.getD 9 0#8]).zeroExtend 32 + 1#32) * 512#32

theorem run_setCapacity (b : Block) :
    setCapacity.run b = ((), { b with sto := { b.sto with capacityBlocks := capacityWord b.sto.csd } }) := by
  rw [setCapacity, Prog.run_bind, Prog.run_askBytes, run_write_capacityReg]
  rfl

theorem toNat_append_byte (x : BitVec n) (y : Byte) : (x ++ y).toNat = x.toNat * 256 + y.toNat := by
  rw [BitVec.toNat_append, ← Nat.shiftLeft_add_eq_or_of_lt y.isLt, Nat.shiftLeft_eq]

theorem toNat_capacityWord (csd : List Byte) : (capacityWord csd).toNat = csdCapacity csd := by
  have h8 := (csd.getD 8 0#8).isLt
  have h9 := (csd.getD 9 0#8).isLt
  have hsize : (cSize [csd.getD 7 0#8, csd.getD 8 0#8, csd.getD 9 0#8]).toNat
      = (csd.getD 7 0#8).toNat % 64 * 65536 + (csd.getD 8 0#8).toNat * 256 + (csd.getD 9 0#8).toNat := by
    simp only [cSize, toNat_append_byte, List.getD_cons_zero, List.getD_cons_succ, BitVec.truncate_eq_setWidth, BitVec.toNat_setWidth]
    omega
  rw [capacityWord, BitVec.toNat_mul, BitVec.toNat_add, BitVec.zeroExtend_eq_setWidth, BitVec.toNat_setWidth, hsize, csdCapacity,
    BitVec.toNat_ofNat, BitVec.toNat_ofNat]
  omega

theorem csdCapacity_bounds (csd : List Byte) : 0 < csdCapacity csd ∧ csdCapacity csd < 2 ^ 32 := by
  refine ⟨by unfold csdCapacity; omega, ?_⟩
  rw [← toNat_capacityWord]
  exact BitVec.isLt _

end Sys2Proof.Machine
end

section
/-!
SUPPORT. `STO.INIT` as a whole (`48_storage.md` rule R289): on any device, on a script that fails one of its steps, and on the reference
device.
-/

namespace Sys2Proof.Machine

theorem exec_stoInit_steps (s : State) :
    exec .stoInit s = .next { s with blk := ((stepsProg s.blk.cfg initSteps).run (setFast false (setEnabled false s.blk))).2 } := by
  rw [exec_stoInit, complete_next, State.mapBlk, stoInitProg_eq, Prog.run_andThen, Prog.run_act, Prog.run_andThen, Prog.run_act]

/-! ## On any device -/

/-- A value that a program can end with has what every one of them has. -/
theorem Prog.EndsFrom.run {Q : α → Prop} {p : Prog α} (h : p.EndsFrom (fun _ => True) Q) (b : Block) : Q (p.run b).1 := by
  induction p generalizing b with
  | ret a => exact h
  | micro f k ih => exact ih _ (h b True.intro) _
  | need why k ih => exact ih h b

/-- The loop's bounds only come closer, so what it finds is not above the capacity. -/
theorem ends_bisect (probe : Nat → Prog (Option Bool)) (fuel lo hi : Nat) :
    (bisect probe fuel lo hi).EndsFrom (fun _ => True) fun k => ∀ j, k = some j → j ≤ hi := by
  induction fuel generalizing lo hi with
  | zero => exact fun j hj => Nat.le_of_eq (Option.some.inj hj).symm
  | succ fuel ih =>
    unfold bisect
    split
    · refine (Prog.EndsFrom.trivial _ _).bind fun r _ => ?_
      match r with
      | none => exact nofun
      | some true => exact ih _ _
      | some false => exact (ih _ _).imp fun k h j hj => (h j hj).trans (by omega)
    · exact fun j hj => Nat.le_of_eq (Option.some.inj hj).symm

/-- Over at least one block the search answers one of them. -/
theorem ends_searchWith (probe : Nat → Prog (Option Bool)) {cap : Nat} (hcap : 0 < cap) :
    (searchWith probe cap).EndsFrom (fun _ => True) fun k => ∀ j, k = some j → j < cap := by
  refine (Prog.EndsFrom.trivial _ _).bind fun r _ => ?_
  match r with
  | none => exact nofun
  | some false => exact fun j hj => Option.some.inj hj ▸ hcap
  | some true =>
    refine (ends_bisect probe 32 0 cap).bind fun k hk => ?_
    match k, hk with
    | none, _ => exact nofun
    | some hi, hk =>
      rintro j hj
      have hle := hk hi rfl
      rw [← Option.some.inj hj]
      split <;> omega

theorem lt_capacity_of_findBlock {c : Config} {b : Block} (hcap : 0 < b.sto.capacityBlocks.toNat) {k : Nat}
    (h : ((findBlock c).run b).1 = some k) : k < b.sto.capacityBlocks.toNat := by
  obtain ⟨r, b', hr⟩ : ∃ r b', (searchWith (probeBlock c) b.sto.capacityBlocks.toNat).run b = (r, b') := ⟨_, _, rfl⟩
  have hend := (ends_searchWith (probeBlock c) hcap).run b
  rw [hr] at hend
  cases r with
  | none =>
    rw [run_findBlock_of_none hr] at h
    cases h
  | some j =>
    rw [run_findBlock_of_some hr] at h
    exact hend k h

/-- A block read ends the transaction, whatever it brought. -/
theorem cs_probeBlock (c : Config) (a : Nat) (b : Block) : ((probeBlock c a).run b).2.sto.cs = false := by
  have hread : ∀ r b, ((readBlockData c keepLead forgetLead c.blockSize r).run b).2.sto.cs = false := by
    intro r b
    simp only [readBlockData, Prog.run_bind, Prog.run_andThen, Prog.run_ret, deselect, Prog.run_act]
    rfl
  unfold probeBlock
  rw [Prog.run_bind, readBlock, Prog.run_bind]
  split
  · rw [Prog.run_bind, Prog.run_askBytes]
    exact hread _ _
  · exact hread _ _

theorem cs_bisect {probe : Nat → Prog (Option Bool)} (h : ∀ a b, ((probe a).run b).2.sto.cs = false) (fuel lo hi : Nat) {b : Block}
    (hb : b.sto.cs = false) : ((bisect probe fuel lo hi).run b).2.sto.cs = false := by
  induction fuel generalizing lo hi b with
  | zero => exact hb
  | succ fuel ih =>
    unfold bisect
    split
    · rw [Prog.run_bind]
      match (probe _).run b, h _ b with
      | (none, b1), h1 => exact h1
      | (some true, b1), h1 => exact ih _ _ h1
      | (some false, b1), h1 => exact ih _ _ h1
    · exact hb

theorem cs_findBlock (c : Config) (b : Block) : ((findBlock c).run b).2.sto.cs = false := by
  have hsearch : ((searchWith (probeBlock c) b.sto.capacityBlocks.toNat).run b).2.sto.cs = false := by
    rw [searchWith, Prog.run_bind]
    match (probeBlock c 0).run b, cs_probeBlock c 0 b with
    | (none, b1), h1 => exact h1
    | (some false, b1), h1 => exact h1
    | (some true, b1), h1 =>
      have hb := cs_bisect (cs_probeBlock c) 32 0 b.sto.capacityBlocks.toNat h1
      dsimp only
      rw [Prog.run_bind]
      match (bisect (probeBlock c) 32 0 b.sto.capacityBlocks.toNat).run b1, hb with
      | (none, b2), h2 => exact h2
      | (some k, b2), h2 => exact h2
  obtain ⟨r, b', hr⟩ : ∃ r b', (searchWith (probeBlock c) b.sto.capacityBlocks.toNat).run b = (r, b') := ⟨_, _, rfl⟩
  rw [hr] at hsearch
  cases r with
  | none => rw [run_findBlock_of_none hr]; exact hsearch
  | some k => rw [run_findBlock_of_some hr]; exact hsearch

/-- What `STO.INIT` ensures at its end. -/
structure InitEnds (b : Block) : Prop where
  cs : b.sto.cs = false
  enabled : b.sto.enabled = true → b.sto.fast = true ∧ b.sto.capacityBlocks.toNat = csdCapacity b.sto.csd
    ∧ b.sto.nextBlock.toNat < b.sto.capacityBlocks.toNat

theorem initEnds_of_disabled {b : Block} (h : b.sto.enabled = false) : InitEnds (setCs false b) where
  cs := rfl
  enabled he := absurd (h.symm.trans he) Bool.false_ne_true

/-- The search and the last step, on a fast bus. -/
theorem initEnds_find (c : Config) (next : Prog Unit) {b : Block} (hen : b.sto.enabled = false) (hfast : b.sto.fast = true) :
    InitEnds ((stepProg c .find next).run b).2 := by
  have hkeeps : SearchClosed fun b' => b'.sto.enabled = false ∧ b'.sto.fast = true ∧ b'.sto.capacityBlocks = capacityWord b.sto.csd
      ∧ b'.sto.csd = b.sto.csd := { disable := fun _ h => ⟨rfl, h.2⟩ }
  rw [stepProg, Prog.run_andThen, run_setCapacity, Prog.run_bind]
  dsimp only
  generalize hb1 : ({ b with sto := { b.sto with capacityBlocks := capacityWord b.sto.csd } } : Block) = b1
  obtain ⟨hen', hfast', hcap', hcsd'⟩ := (hkeeps.keeps_findBlock c).run (b := b1) (hb1 ▸ ⟨hen, hfast, rfl, rfl⟩)
  have hcs := cs_findBlock c b1
  have hbound := fun k => lt_capacity_of_findBlock (c := c) (b := b1) (k := k) (by
    rw [← hb1, toNat_capacityWord]
    exact (csdCapacity_bounds _).1)
  have hcap1 : b1.sto.capacityBlocks = capacityWord b.sto.csd := by rw [← hb1]
  match (findBlock c).run b1, hen', hfast', hcap', hcsd', hcs, hbound with
  | (none, b2), hen', _, _, _, _, _ => exact initEnds_of_disabled hen'
  | (some k, b2), _, hfast', hcap', hcsd', hcs, hbound =>
    have hk := hbound k rfl
    have hlt := (csdCapacity_bounds b.sto.csd).2
    rw [hcap1, toNat_capacityWord] at hk
    dsimp only
    rw [startLogging, Prog.run_andThen, run_write_nextBlockReg]
    refine ⟨hcs, fun _ => ⟨hfast', ?_, ?_⟩⟩
    · change b2.sto.capacityBlocks.toNat = csdCapacity b2.sto.csd
      rw [hcap', hcsd', toNat_capacityWord]
    · change (BitVec.ofNat 32 k).toNat < b2.sto.capacityBlocks.toNat
      rw [hcap', toNat_capacityWord, BitVec.toNat_ofNat, Nat.mod_eq_of_lt (by omega)]
      exact hk

/-- A step that keeps what the next one needs ends well when the next one does. -/
theorem initEnds_orFail {P : Block → Prop} {step : Prog Bool} {next : Prog Unit} (hs : step.Keeps P)
    (hen : ∀ b, P b → b.sto.enabled = false) (hn : ∀ b, P b → InitEnds (next.run b).2) {b : Block} (hb : P b) :
    InitEnds ((orFail step next).run b).2 := by
  have hkept := hs.run hb
  rw [run_orFail next (Prod.mk.eta (p := step.run b)).symm]
  split
  · exact hn _ hkept
  · exact initEnds_of_disabled (hen _ hkept)

theorem storageClosed_disabled : StorageClosed fun b => b.sto.enabled = false where
  disable _ _ := rfl

/-- The storage disabled, the bus fast. -/
structure DisabledFast (b : Block) : Prop where
  disabled : b.sto.enabled = false
  fast : b.sto.fast = true

theorem keeps_cmdReadcsd_disabledFast (c : Config) : (cmdReadcsd c).Keeps DisabledFast :=
  (keeps_command (P := DisabledFast) (fun _ _ h => ⟨h.1, h.2⟩) (fun _ h => ⟨h.1, h.2⟩) c _).bind fun _ =>
    keeps_readBlockData (fun _ _ h => ⟨h.1, h.2⟩) (fun _ h => ⟨h.1, h.2⟩) c (fun _ _ => .act fun _ h => ⟨h.1, h.2⟩)
      (fun _ h => ⟨h.1, h.2⟩) _ _

/-- Whatever the device answers, the steps end well. -/
theorem initEnds_steps (c : Config) {b : Block} (hen : b.sto.enabled = false) : InitEnds ((stepsProg c initSteps).run b).2 := by
  have hP := storageClosed_disabled
  refine initEnds_orFail ((hP.keeps_commandAlone c _).bind fun _ => .ret _) (fun _ h => h) (fun b h => ?_) hen
  refine initEnds_orFail (hP.keeps_cmdIfcond c) (fun _ h => h) (fun b h => ?_) h
  refine initEnds_orFail (hP.keeps_opcondLoop c _) (fun _ h => h) (fun b h => ?_) h
  refine initEnds_orFail ((hP.keeps_cmdReadocr c).bind fun _ => .ret _) (fun _ h => h) (fun b h => ?_) h
  exact initEnds_orFail (b := setFast true b) (keeps_cmdReadcsd_disabledFast c) (fun _ h => h.disabled)
    (fun b h => initEnds_find c _ h.disabled h.fast) ⟨h, rfl⟩

/-- The bus carries the reset frame first. -/
theorem sent_steps (c : Config) (b : Block) :
    ∃ sent, ((stepsProg c initSteps).run b).2.env.spiSent = sent ++ (frameBytes c frameReset).reverse ++ b.env.spiSent := by
  have hP : StorageClosed fun b' => ∃ sent, b'.env.spiSent = sent ++ ((frameBytes c frameReset).reverse ++ b.env.spiSent) :=
    { xchg := fun v _ ⟨sent, h⟩ => ⟨v :: sent, congrArg (v :: ·) h⟩ }
  obtain ⟨r, bs, d', hr, h⟩ := exists_reply c frameReset b
  obtain ⟨sent, hsent⟩ : ∃ sent, ((stepsProg c initSteps).run b).2.env.spiSent = sent ++ ((frameBytes c frameReset).reverse ++ b.env.spiSent) := by
    rw [show stepsProg c initSteps = orFail ((commandAlone c frameReset).bind fun r => .ret (decide (r = some c.answers.idle)))
      (stepsProg c [.ifcond, .opcond, .readocr, .readcsd, .find]) from rfl,
      run_orFail _ (run_bind_ret (fun r => decide (r = some c.answers.idle)) (run_commandAlone hr h))]
    have hfirst : ∃ sent, ((setCs false b).spoke d' (sentFor c frameReset bs.length)).env.spiSent
        = sent ++ ((frameBytes c frameReset).reverse ++ b.env.spiSent) :=
      ⟨(List.replicate (bs.length - 6) c.answers.filler).reverse, by
        rw [Block.spoke, sentFor, List.reverse_append, List.append_assoc]
        rfl⟩
    split
    · exact (hP.keeps_stepsProg c (fun _ h => h) _).run hfirst
    · exact hfirst
  exact ⟨sent, by rw [hsent, List.append_assoc]⟩

/-! ## On a script that fails a step -/

/-- Where `STO.INIT` stands before a step, begun in `b0`: `fast` once the register `csd` was asked for, and the device is `d`. -/
structure InitAt (b0 : Block) (csd : List Byte) (fast : Bool) (d : Device) (b : Block) : Prop where
  enabled : b.sto.enabled = false
  nextBlock : b.sto.nextBlock = b0.sto.nextBlock
  fast_eq : b.sto.fast = fast
  lengthCsd : b.sto.csd.length = 16
  lengthLead : b.sto.lead.length = 4
  csd_eq : fast = true → b.sto.csd = csd
  device : b.env.device = d

theorem InitAt.conversed {b0 : Block} {csd : List Byte} {fast : Bool} {d d' : Device} {b b' : Block} (h : InitAt b0 csd fast d b)
    (hb : Conversed d' b b') : InitAt b0 csd fast d' b' := by
  obtain ⟨-, hsto, hd⟩ := hb
  obtain ⟨hen, hnext, hfast, hcsd, hlead, hknown, -⟩ := h
  refine ⟨?_, ?_, ?_, ?_, ?_, ?_, hd⟩ <;> rw [hsto] <;> assumption

/-- Where it stands when a step has failed. -/
structure InitFailed (b0 : Block) (fast : Bool) (d : Device) (b : Block) : Prop where
  enabled : b.sto.enabled = false
  cs : b.sto.cs = false
  nextBlock : b.sto.nextBlock = b0.sto.nextBlock
  fast_eq : b.sto.fast = fast
  device : b.env.device = d

theorem InitAt.failed {b0 : Block} {csd : List Byte} {fast : Bool} {d : Device} {b : Block} (h : InitAt b0 csd fast d b) :
    InitFailed b0 fast d (setCs false b) where
  enabled := h.enabled
  cs := rfl
  nextBlock := h.nextBlock
  fast_eq := h.fast_eq
  device := h.device

section
variable {c : Config} (hok : c.ok = true) (hne : c.answers.idle ≠ c.answers.ready) {b0 : Block} {csd : List Byte} {fast : Bool}
  {bs rest : List Byte} {b : Block} (h : InitAt b0 csd fast (.script (bs ++ rest)) b)

include hne h in
/-- A step that passes goes on to the next one. -/
theorem stepProg_passes {step : InitStep} (hp : stepPasses c csd step bs) (next : Prog Unit) :
    ∃ b', (stepProg c step next).run b = next.run b' ∧ InitAt b0 csd (fast || step == .readcsd) (.script rest) b' := by
  have hgo : ∀ {step : Prog Bool}, (∃ b', step.run b = (true, b') ∧ Conversed (.script rest) b b') →
      ∃ b', (orFail step next).run b = next.run b' ∧ InitAt b0 csd (fast || false) (.script rest) b' := by
    rintro step ⟨b', hrun, hb⟩
    exact ⟨b', run_orFail next hrun, (Bool.or_false fast).symm ▸ h.conversed hb⟩
  cases step with
  | reset =>
    have hr : reply c (some c.answers.idle) bs := hp
    obtain ⟨b', hrun, hb⟩ := run_resetStep hr (Block.answers_of_script c frameReset h.device (six_le_of_reply hr))
    exact hgo ⟨b', by rw [hrun, decide_eq_true rfl], hb⟩
  | ifcond =>
    obtain ⟨a, e, ha, he, h2, h3, rfl⟩ := hp
    have hlen := six_le_of_reply ha
    obtain ⟨b', hrun, hb⟩ := run_ifcondStep ha he (Block.answers_of_script c frameIfcond h.device (by rw [List.length_append]; omega))
    exact hgo ⟨b', by rw [hrun, decide_eq_true ⟨h2, h3⟩], hb⟩
  | opcond =>
    obtain ⟨rounds, last, hlen, hr, hlast, rfl⟩ := hp
    exact hgo (opcondLoop_passes hne hlen hr hlast h.device)
  | readocr =>
    obtain ⟨a, o, ha, ho, hbit, rfl⟩ := hp
    have hlen := six_le_of_reply ha
    obtain ⟨b', hrun, hb⟩ := run_readocrStep ha ho (Block.answers_of_script c frameReadocr h.device (by rw [List.length_append]; omega))
    exact hgo ⟨b', by rw [hrun, hbit], hb⟩
  | readcsd =>
    obtain ⟨hlen, hr⟩ := hp
    have hrun := run_cmdReadcsd_of_reply (b := setFast true b) hr hlen h.lengthCsd
      (Block.answers_of_script c frameReadcsd h.device (six_le_of_blockReply hr))
    exact ⟨_, run_orFail next hrun, h.enabled, h.nextBlock, (Bool.or_true fast).symm, hlen, h.lengthLead, fun _ => rfl, rfl⟩
  | find => exact hp.elim

include hok hne h in
/-- A step that fails ends the operation. -/
theorem stepProg_fails {step : InitStep} (hfind : step = .find → fast = true) (hf : stepFails c csd step bs) (next : Prog Unit) :
    ∃ b', (stepProg c step next).run b = ((), b') ∧ InitFailed b0 (fast || step == .readcsd) (.script rest) b' := by
  have hstop : ∀ {step : Prog Bool}, (∃ b', step.run b = (false, b') ∧ Conversed (.script rest) b b') →
      ∃ b', (orFail step next).run b = ((), b') ∧ InitFailed b0 (fast || false) (.script rest) b' := by
    rintro step ⟨b', hrun, hb⟩
    exact ⟨_, run_orFail next hrun, (Bool.or_false fast).symm ▸ (h.conversed hb).failed⟩
  cases step with
  | reset =>
    obtain ⟨r, hr, hreply⟩ := hf
    obtain ⟨b', hrun, hb⟩ := run_resetStep hreply (Block.answers_of_script c frameReset h.device (six_le_of_reply hreply))
    exact hstop ⟨b', by rw [hrun, decide_eq_false hr], hb⟩
  | ifcond =>
    obtain ⟨r, hr, hreply⟩ | ⟨a, e, ha, he, hecho, rfl⟩ := hf
    · exact hstop ⟨_, run_cmdIfcond_of_refusal hr hreply (Block.answers_of_script c frameIfcond h.device (six_le_of_reply hreply)), rfl, rfl, rfl⟩
    · have hlen := six_le_of_reply ha
      obtain ⟨b', hrun, hb⟩ := run_ifcondStep ha he (Block.answers_of_script c frameIfcond h.device (by rw [List.length_append]; omega))
      exact hstop ⟨b', by rw [hrun, decide_eq_false hecho], hb⟩
  | opcond => exact hstop (opcondLoop_fails hne hf h.device)
  | readocr =>
    obtain ⟨r, hr, hreply⟩ | ⟨a, o, ha, ho, hbit, rfl⟩ := hf
    · exact hstop ⟨_, run_bind_ret blockAddressed (run_cmdReadocr_of_refusal hr hreply
        (Block.answers_of_script c frameReadocr h.device (six_le_of_reply hreply))), rfl, rfl, rfl⟩
    · have hlen := six_le_of_reply ha
      obtain ⟨b', hrun, hb⟩ := run_readocrStep ha ho (Block.answers_of_script c frameReadocr h.device (by rw [List.length_append]; omega))
      exact hstop ⟨b', by rw [hrun, hbit], hb⟩
  | readcsd =>
    have hrun := run_cmdReadcsd_of_refusal (b := setFast true b) hf
      (Block.answers_of_script c frameReadcsd h.device (six_le_of_blockRefusal hf))
    exact ⟨_, run_orFail next hrun, h.enabled, rfl, h.nextBlock, (Bool.or_true fast).symm, rfl⟩
  | find =>
    have hcsd := h.csd_eq (hfind rfl)
    obtain ⟨b', hrun, hs, hd⟩ := findBlock_fails hok (b := { b with sto := { b.sto with capacityBlocks := capacityWord b.sto.csd } })
      (bs := bs) (rest := rest) h.lengthLead (by rw [toNat_capacityWord, hcsd]; exact hf) h.device
    refine ⟨setCs false (setEnabled false b'), ?_, rfl, rfl, ?_, ?_, hd⟩
    · rw [stepProg, Prog.run_andThen, run_setCapacity, Prog.run_bind, hrun]
      rfl
    · change b'.sto.nextBlock = _
      rw [hs.sto]
      exact h.nextBlock
    · change b'.sto.fast = _
      rw [hs.sto]
      exact h.fast_eq.trans (Bool.or_false fast).symm

end

/-- The steps that pass, one after the other. -/
theorem stepsProg_passes {c : Config} (hne : c.answers.idle ≠ c.answers.ready) {b0 : Block} {csd : List Byte} {before : List InitStep}
    {passed : List (List Byte)} (hp : List.Forall₂ (stepPasses c csd) before passed) (steps : List InitStep) {fast : Bool} {rest : List Byte}
    {b : Block} (h : InitAt b0 csd fast (.script (passed.flatten ++ rest)) b) :
    ∃ b', (stepsProg c (before ++ steps)).run b = (stepsProg c steps).run b'
      ∧ InitAt b0 csd (fast || before.contains .readcsd) (.script rest) b' := by
  induction hp generalizing fast b with
  | nil => exact ⟨b, rfl, (Bool.or_false fast).symm ▸ h⟩
  | @cons step bs before passed hstep hp ih =>
    rw [List.flatten_cons, List.append_assoc] at h
    obtain ⟨b1, hrun, h1⟩ := stepProg_passes hne h hstep (stepsProg c (before ++ steps))
    obtain ⟨b2, hrest, h2⟩ := ih h1
    refine ⟨b2, hrun.trans hrest, ?_⟩
    rw [List.contains_cons, ← Bool.or_assoc, BEq.comm]
    exact h2

/-- The bus is fast exactly from the fifth step on. -/
theorem fast_of_initSteps {before after : List InitStep} {step : InitStep} (h : initSteps = before ++ step :: after) :
    (before.contains .readcsd || step == .readcsd) = decide (step = .readcsd ∨ step = .find)
      ∧ (step = .find → before.contains .readcsd = true) := by
  have hplaces : ∀ n : Fin initSteps.length, ((initSteps.take n).contains .readcsd || initSteps[n] == .readcsd)
      = decide (initSteps[n] = .readcsd ∨ initSteps[n] = .find)
      ∧ (initSteps[n] = .find → (initSteps.take n).contains .readcsd = true) := by decide
  have hn : before.length < initSteps.length := by
    rw [h, List.length_append, List.length_cons]
    omega
  have htake : initSteps.take before.length = before := by rw [h, List.take_left]
  have hget : initSteps[before.length] = step := by
    simp only [h, List.getElem_append_right (Nat.le_refl _), Nat.sub_self, List.getElem_cons_zero]
  have hplace := hplaces ⟨before.length, hn⟩
  rw [Fin.getElem_fin, htake, hget] at hplace
  exact hplace

/-- The outcome of `STO.INIT` on a script that fails a step. -/
theorem init_fails {s : State} {before after : List InitStep} {step : InitStep} {passed : List (List Byte)} {csd failed rest : List Byte}
    (hok : s.blk.cfg.ok = true) (hne : s.blk.cfg.answers.idle ≠ s.blk.cfg.answers.ready) (hcsd : s.blk.sto.csd.length = 16)
    (hlead : s.blk.sto.lead.length = 4) (hsteps : initSteps = before ++ step :: after)
    (hp : List.Forall₂ (stepPasses s.blk.cfg csd) before passed) (hf : stepFails s.blk.cfg csd step failed)
    (hd : s.blk.env.device = .script (passed.flatten ++ failed ++ rest)) :
    ∃ t, exec .stoInit s = .next t ∧ InitFailed s.blk (decide (step = .readcsd ∨ step = .find)) (.script rest) t.blk := by
  obtain ⟨hfast, hfind⟩ := fast_of_initSteps hsteps
  have hstart : InitAt s.blk csd false (.script (passed.flatten ++ (failed ++ rest))) (setFast false (setEnabled false s.blk)) :=
    ⟨rfl, rfl, rfl, hcsd, hlead, nofun, by rw [← List.append_assoc]; exact hd⟩
  obtain ⟨b1, hpass, h1⟩ := stepsProg_passes hne hp (step :: after) hstart
  rw [Bool.false_or] at h1
  obtain ⟨b2, hfail, h2⟩ := stepProg_fails hok hne h1 hfind hf (stepsProg s.blk.cfg after)
  rw [hfast] at h2
  rw [← hsteps] at hpass
  exact ⟨_, exec_stoInit_steps s, by rw [hpass, stepsProg, hfail]; exact h2⟩

end Sys2Proof.Machine
end

section
/-!
SUPPORT. `STO.INIT` on the reference device (`48_storage.md` rules R289, R310).
-/

namespace Sys2Proof.Machine

/-- A configuration that speaks to the reference device. -/
structure SpeaksRef (c : Config) : Prop where
  ok : c.ok = true
  answers : c.answers = standardAnswers
  header : c.cmdHeader = 0x40#8
  token : 2 ≤ c.tokenRetryMax

/-- The device after it got ready. -/
def readied (d : RefDevice) : RefDevice := { d with idle := false, warm := 0 }

section
variable {c : Config} (hc : SpeaksRef c)
include hc

theorem SpeaksRef.idle : c.answers.idle = 0x01#8 := by rw [hc.answers]; rfl

theorem SpeaksRef.ready : c.answers.ready = 0x00#8 := by rw [hc.answers]; rfl

/-- A command to a quiet device and the bytes it queues for it, the first one the answer. -/
theorem SpeaksRef.answered {b : Block} {d d' : RefDevice} {f : CmdFrame} {r : Byte} {q : List Byte} (hd : b.env.device = .reference d)
    (hq : quiet d) (hr : r.msb = false) (hcmd : refCommand b.cfg d (frameBytes c f) = refAnswer (r :: q) d') (hq' : quiet d') :
    ∃ a, reply c (some r) a ∧ b.Answers c f (a ++ q) (.reference d') := by
  refine ⟨_, reply_of_reference hc.ok hr, ?_⟩
  rw [List.append_assoc]
  exact Block.answers_of_reference hd hq hc.header (by rw [hc.answers]; rfl) f hcmd hq'

/-- A command that queues its answer alone. -/
theorem SpeaksRef.run_commandAlone {b : Block} {d d' : RefDevice} {f : CmdFrame} {r : Byte} (hd : b.env.device = .reference d) (hq : quiet d)
    (hr : r.msb = false) (hcmd : refCommand b.cfg d (frameBytes c f) = refAnswer [r] d') (hq' : quiet d') :
    ∃ b', (commandAlone c f).run b = (some r, b') ∧ Conversed (.reference d') b b' := by
  obtain ⟨a, ha, h⟩ := hc.answered hd hq hr hcmd hq'
  rw [List.append_nil] at h
  exact run_commandAlone_conversed ha h

/-- The device counts its rounds down, so it gets ready when there are enough of them. -/
theorem SpeaksRef.run_opcondLoop (n : Nat) {b : Block} {d : RefDevice} (hd : b.env.device = .reference d) (hq : quiet d) :
    ∃ d' b', (opcondLoop c n).run b = (decide (d.warm < n), b') ∧ Conversed (.reference d') b b' ∧ (d.warm < n → d' = readied d) := by
  induction n generalizing b d with
  | zero => exact ⟨d, b, rfl, ⟨rfl, rfl, hd⟩, nofun⟩
  | succ n ih =>
    obtain ⟨b1, happ, h1⟩ := hc.run_commandAlone hd hq (r := if d.idle then 0x01#8 else 0x00#8) (by split <;> rfl)
      (refCommand_app c b.cfg d hc.header) hq
    have hanswer : (if d.idle then 0x01#8 else 0x00#8) = c.answers.idle ∨ (if d.idle then 0x01#8 else 0x00#8) = c.answers.ready := by
      rw [hc.idle, hc.ready]
      cases d.idle
      · exact .inr rfl
      · exact .inl rfl
    have hop := refCommand_opcond c b1.cfg d hc.header
    by_cases hwarm : 0 < d.warm
    · rw [if_pos hwarm] at hop
      obtain ⟨b2, hidle, h2⟩ := hc.run_commandAlone (d' := { d with warm := d.warm - 1 }) h1.device hq rfl hop hq
      obtain ⟨d', b3, hloop, h3, hd'⟩ := ih (d := { d with warm := d.warm - 1 }) h2.device hq
      refine ⟨d', b3, ?_, (h1.trans h2).trans h3, fun hlt => hd' (by dsimp only; omega)⟩
      rw [run_opcondLoop_succ hanswer happ hidle, hc.ready, hc.idle, if_neg (by decide), if_pos rfl, hloop]
      refine congrArg (·, b3) (decide_eq_decide.mpr ?_)
      dsimp only
      omega
    · rw [if_neg hwarm] at hop
      obtain ⟨b2, hready, h2⟩ := hc.run_commandAlone (d' := { d with idle := false }) h1.device hq rfl hop hq
      have hzero : d.warm = 0 := by omega
      refine ⟨_, b2, ?_, h1.trans h2, fun _ => ?_⟩
      · rw [run_opcondLoop_succ hanswer happ hready, hc.ready, if_pos rfl, Prog.run_ret, decide_eq_true (by omega)]
      · rw [readied, ← hzero]

/-- The first four steps pass when the device gets ready in time and is block-addressed. -/
theorem SpeaksRef.run_firstSteps {b : Block} {d : RefDevice} (hd : b.env.device = .reference d) (hq : quiet d) (hocr : d.ocr.length = 4)
    (steps : List InitStep) :
    ∃ d' b', Conversed (.reference d') b b' ∧ (d.warm < c.opcondRetryMax → d' = readied d)
      ∧ (stepsProg c (.reset :: .ifcond :: .opcond :: .readocr :: steps)).run b =
        if d.warm < c.opcondRetryMax ∧ (d.ocr.getD 0 0#8).getLsbD 6 = true then (stepsProg c steps).run b' else ((), setCs false b') := by
  obtain ⟨a1, hr1, ha1⟩ := hc.answered (q := []) hd hq rfl (refCommand_reset c b.cfg d hc.header) hq
  rw [List.append_nil, ← hc.idle] at *
  obtain ⟨b1, hreset, h1⟩ := run_resetStep hr1 ha1
  obtain ⟨a2, hr2, ha2⟩ := hc.answered (q := [0x00#8, 0x00#8, 0x01#8, 0xAA#8]) h1.device hq rfl
    (refCommand_ifcond c b1.cfg { d with idle := true } hc.header) hq
  rw [← hc.idle] at hr2
  obtain ⟨b2, hifcond, h2⟩ := run_ifcondStep hr2 rfl ha2
  obtain ⟨d', b3, hopcond, h3, hd'⟩ := hc.run_opcondLoop c.opcondRetryMax h2.device hq
  have hbegin : (stepsProg c (.reset :: .ifcond :: .opcond :: .readocr :: steps)).run b
      = if decide (d.warm < c.opcondRetryMax) then (stepsProg c (.readocr :: steps)).run b3 else ((), setCs false b3) :=
    ((run_orFail _ hreset).trans (if_pos (decide_eq_true rfl))).trans (((run_orFail _ hifcond).trans (if_pos rfl)).trans (run_orFail _ hopcond))
  have hall := (h1.trans h2).trans h3
  rw [hbegin]
  by_cases hwarm : d.warm < c.opcondRetryMax
  · obtain rfl := hd' hwarm
    obtain ⟨a4, hr4, ha4⟩ := hc.answered (q := d.ocr) h3.device hq rfl (refCommand_readocr c b3.cfg (readied d) hc.header) hq
    rw [← hc.ready] at hr4
    obtain ⟨b4, hreadocr, h4⟩ := run_readocrStep hr4 hocr ha4
    refine ⟨readied d, b4, hall.trans h4, fun _ => rfl, ?_⟩
    rw [if_pos (decide_eq_true hwarm), stepsProg, stepProg, run_orFail _ hreadocr]
    simp only [hwarm, true_and]
  · refine ⟨d', b3, hall, hd', ?_⟩
    rw [if_neg (by simpa using hwarm), if_neg (fun h => hwarm h.1)]

end

/-- The last two steps, on the register delivered and the blocks found. -/
theorem RefSearch.run_lastSteps {c : Config} {d : RefDevice} {k : Nat} (hs : RefSearch c d (csdCapacity d.csd) k) (hk : k ≤ csdCapacity d.csd)
    (hcsdLen : d.csd.length = 16) {b : Block} (hc : b.cfg = c) (hd : b.env.device = .reference d) (hcsd : b.sto.csd.length = 16)
    (hlead : b.sto.lead.length = 4) :
    ∃ b', (stepsProg c [.readcsd, .find]).run b = ((), b') ∧ b'.cfg = c ∧ b'.env.device = .reference d ∧ b'.sto.lead.length = 4
      ∧ b'.sto = { b.sto with csd := d.csd, fast := true, enabled := true, cs := false, capacityBlocks := capacityWord d.csd
                              nextBlock := BitVec.ofNat 32 (if k < csdCapacity d.csd then k else 0), lead := b'.sto.lead } := by
  have hanswers := Block.answers_of_reference (b := setFast true b) hd hs.quiet hs.header (by rw [hs.answers]; rfl) frameReadcsd
    (refCommand_readcsd c b.cfg d hs.header) hs.quiet
  obtain ⟨b1, hread, hcfg, hsto, hd1⟩ : ∃ b1, (cmdReadcsd c).run (setFast true b) = (true, b1) ∧ b1.cfg = c
      ∧ b1.sto = { b.sto with fast := true, cs := false, csd := d.csd } ∧ b1.env.device = .reference d :=
    ⟨_, run_cmdReadcsd_of_reply (blockReply_of_reference hs.ok hs.answers hs.token d.csd) hcsdLen (b := setFast true b) hcsd hanswers,
      hc, rfl, rfl⟩
  obtain ⟨hpos, hlt⟩ := csdCapacity_bounds d.csd
  obtain ⟨n, b2, hfind, -, hblocks⟩ := hs.run_findBlock hpos hk
    (b := { b1 with sto := { b1.sto with capacityBlocks := capacityWord b1.sto.csd } }) hcfg hd1 (by rw [hsto]; exact hlead)
    (by rw [hsto]; exact toNat_capacityWord d.csd)
  have hsto2 := hblocks.sto
  rw [hsto] at hsto2
  refine ⟨{ b2 with sto := { b2.sto with enabled := true, nextBlock := BitVec.ofNat 32 (if k < csdCapacity d.csd then k else 0) } }, ?_,
    hblocks.cfg.trans hcfg, hblocks.device, hblocks.lead, ?_⟩
  · rw [stepsProg, stepProg, Prog.run_andThen, Prog.run_act, run_orFail _ hread, if_pos rfl, stepsProg, stepProg, Prog.run_andThen,
      run_setCapacity, Prog.run_bind, hfind]
    dsimp only
    rw [startLogging, Prog.run_andThen, run_write_nextBlockReg]
    rfl
  · dsimp only
    rw [hsto2]

/-- Settles O57: any device, the reference device, and a script that fails a step. -/
theorem stoInitOutcome : Obligations.StoInitOutcome := by
  unfold Obligations.StoInitOutcome
  refine ⟨fun s => ?any, fun s d k cap hok hans hheader htoken hcsd hlead hd hq hocr hcsdLen => ?reference,
    fun s before after step passed csd failed rest hok hne hcsd hlead hsteps hp hf hd => ?script⟩
  case any =>
    have hend := initEnds_steps s.blk.cfg (b := setFast false (setEnabled false s.blk)) rfl
    exact ⟨_, exec_stoInit_steps s, hend.cs, hend.enabled, sent_steps s.blk.cfg (setFast false (setEnabled false s.blk))⟩
  case reference =>
    have hc : SpeaksRef s.blk.cfg := ⟨hok, hans, hheader, htoken⟩
    obtain ⟨d', b1, h1, hready, hrun⟩ := hc.run_firstSteps (b := setFast false (setEnabled false s.blk)) hd hq hocr [.readcsd, .find]
    refine ⟨fun hfail => ?_, fun hbit hwarm hcap hle hk hused => ?_⟩
    · refine ⟨_, exec_stoInit_steps s, ?_⟩
      rw [show initSteps = .reset :: .ifcond :: .opcond :: .readocr :: [.readcsd, .find] from rfl, hrun, if_neg]
      · exact ⟨congrArg (·.enabled) h1.sto, congrArg (·.fast) h1.sto, rfl⟩
      · rintro ⟨hwarm, hbit⟩
        obtain hclear | hlate := hfail
        · exact Bool.false_ne_true (hclear.symm.trans hbit)
        · omega
    · subst hcap
      obtain rfl := hready hwarm
      rw [if_pos ⟨hwarm, hbit⟩] at hrun
      have hs : RefSearch s.blk.cfg (readied d) (csdCapacity d.csd) k :=
        ⟨hok, hans, hheader, htoken, hq, (csdCapacity_bounds d.csd).2, hle, hused⟩
      obtain ⟨b2, hlast, hcfg2, hd2, hlead2, hsto2⟩ := RefSearch.run_lastSteps (d := readied d) hs hk hcsdLen h1.cfg h1.device
        (by rw [h1.sto]; exact hcsd) (by rw [h1.sto]; exact hlead)
      rw [hlast] at hrun
      have hcap2 : b2.sto.capacityBlocks.toNat = csdCapacity d.csd := by
        rw [hsto2]
        exact toNat_capacityWord d.csd
      have hlt := (csdCapacity_bounds d.csd).2
      obtain ⟨n, b3, hfind, -, -⟩ := hs.run_findBlock (csdCapacity_bounds d.csd).1 hk hcfg2 hd2 hlead2 hcap2
      refine ⟨{ s with blk := b2 }, _, ?_, ?_, ?_, ?_, ?_, hcap2, ?_, done_setRet_of_run (p := findBlock)
        (g := fun k => .word (k.map (BitVec.ofNat 32))) (hcfg2 ▸ hfind), ?_⟩
      · rw [exec_stoInit_steps, show initSteps = .reset :: .ifcond :: .opcond :: .readocr :: [.readcsd, .find] from rfl, hrun]
      · exact congrArg (·.enabled) hsto2
      · exact congrArg (·.fast) hsto2
      · exact congrArg (·.cs) hsto2
      · exact congrArg (·.csd) hsto2
      · rw [hsto2]
        exact Nat.mod_eq_of_lt (by split <;> omega)
      · exact congrArg (fun st => Result.word (some st.nextBlock)) hsto2.symm
  case script =>
    obtain ⟨t, ht, hfailed⟩ := init_fails hok hne hcsd hlead hsteps hp hf hd
    exact ⟨t, ht, hfailed.enabled, hfailed.cs, hfailed.device, hfailed.fast_eq, hfailed.nextBlock⟩

end Sys2Proof.Machine
end

section
/-!
SUPPORT. Rounding is monotone (`00_scope.md` rule R12), and so is the steering width of an angle (`47_actuation.md` rule R255).
-/

namespace Sys2Proof.Machine

/-! ## Rounding is monotone -/

theorem roundDiv_mono {num num' den : Nat} (hd : 0 < den) (h : num ≤ num') : roundDiv num den ≤ roundDiv num' den := by
  obtain ⟨q, r, rfl, hr, hq⟩ := roundDiv_cases num hd
  obtain ⟨q', r', rfl, hr', hq'⟩ := roundDiv_cases num' hd
  rcases lt_trichotomy q q' with hlt | rfl | hgt
  · omega
  · omega
  · have := Nat.mul_le_mul_right den hgt
    rw [Nat.succ_mul] at this
    omega

theorem magShift_mono {num num' : Nat} (den : Nat) (h : num ≤ num') : magShift num den ≤ magShift num' den := by
  have hdiv := Nat.div_le_div_right (c := den) h
  have hlog : Nat.log2 (num / den) ≤ Nat.log2 (num' / den) := by
    rw [Nat.log2_eq_log_two, Nat.log2_eq_log_two]
    exact Nat.log_mono_right hdiv
  unfold magShift
  omega

/-- Among values of one shift the significand grows, and a greater shift begins above the end of a smaller one. -/
theorem roundMag_mono {num num' den : Nat} (hd : 0 < den) (h : num ≤ num') : roundMag num den ≤ roundMag num' den := by
  rw [roundMag_eq, roundMag_eq]
  refine min_le_min_right _ ?_
  rcases Nat.lt_or_eq_of_le (magShift_mono den h) with hlt | heq
  · have hle := magDigits_le num hd
    have hge := le_magDigits (num := num') hd (by omega)
    have := Nat.mul_le_mul_right (2 ^ 23) hlt
    rw [Nat.succ_mul] at this
    omega
  · have hdigits : magDigits num den ≤ magDigits num' den := by
      unfold magDigits
      rw [heq]
      exact roundDiv_mono (Nat.mul_pos hd (Nat.two_pow_pos _)) h
    omega

/-- The magnitude of `num / den` units rounded, an infinity's above every finite one. -/
def roundedMag (num den : Nat) : Nat := f32Mag (f32Pack false (roundMag num den))

theorem roundMag_lt (num den : Nat) : roundMag num den < 2 ^ 31 := lt_of_le_of_lt (roundMag_le_inf _ _) (by decide)

theorem roundedMag_mono {num num' den : Nat} (hd : 0 < den) (h : num ≤ num') : roundedMag num den ≤ roundedMag num' den :=
  f32Mag_pack_mono false (roundMag_mono hd h) (roundMag_lt _ _)

theorem roundedMag_zero {den : Nat} : roundedMag 0 den = 0 := by
  rw [roundedMag, roundMag_zero_left, f32Mag_pack_zero]

/-- The signed value of `num / den` units rounded. -/
def roundedUnits (den : Nat) (num : Int) : Int := if num < 0 then -(roundedMag num.natAbs den : Int) else roundedMag num.natAbs den

theorem roundedUnits_mono {den : Nat} (hd : 0 < den) : Monotone (roundedUnits den) := by
  intro x y hxy
  unfold roundedUnits
  split
  · split
    · have := roundedMag_mono (num := y.natAbs) (num' := x.natAbs) hd (by omega)
      omega
    · omega
  · have := roundedMag_mono (num := x.natAbs) (num' := y.natAbs) hd (by omega)
    rw [if_neg (by omega)]
    omega

theorem f32Units_pack_roundMag (s : Bool) (num den : Nat) :
    f32Units (f32Pack s (roundMag num den)) = if s then -(roundedMag num den : Int) else roundedMag num den := by
  rw [f32Units_pack s (roundMag_lt _ _), f32Mag_pack s (roundMag_lt _ _), roundedMag]

/-! ## Products and sums -/

/-- The finite values are those below the infinities. -/
theorem f32Finite_iff_mag (x : F32) : f32Finite x ↔ f32Mag x < 2 ^ 24 * 2 ^ 253 := by
  have hf : f32Frac x < 2 ^ 23 := Nat.mod_lt _ (by decide)
  have he : f32Exp x < 256 := Nat.mod_lt _ (by decide)
  unfold f32Finite f32Mag
  split
  · next h0 => exact ⟨fun _ => hf.trans (by decide), fun _ => by omega⟩
  · constructor
    · intro hne
      calc (2 ^ 23 + f32Frac x) * 2 ^ (f32Exp x - 1) < 2 ^ 24 * 2 ^ (f32Exp x - 1) :=
            Nat.mul_lt_mul_of_pos_right (by omega) (Nat.two_pow_pos _)
        _ ≤ 2 ^ 24 * 2 ^ 253 := Nat.mul_le_mul_left _ (Nat.pow_le_pow_right (by decide) (by omega))
    · intro hlt hinf
      rw [hinf] at hlt
      have := Nat.mul_le_mul_right (2 ^ 254) (Nat.le_add_right (2 ^ 23) (f32Frac x))
      omega

/-- A value between finite ones is finite. -/
theorem f32Finite_of_between {lo x hi : F32} (hlo : f32Finite lo) (hhi : f32Finite hi) (h : f32Units lo ≤ f32Units x)
    (h' : f32Units x ≤ f32Units hi) : f32Finite x := by
  rw [f32Finite_iff_mag, ← natAbs_f32Units] at *
  omega

theorem f32Units_mul {a b : F32} (ha : f32Finite a) (hb : f32Finite b) :
    f32Units (f32Mul a b) = roundedUnits (2 ^ 149) (f32Units a * f32Units b) := by
  have hmul : f32Mul a b = f32Pack (f32Sign a != f32Sign b) (roundMag (f32Mag a * f32Mag b) (2 ^ 149)) := by
    simp only [f32Mul, f32IsNan_of_finite ha, f32IsNan_of_finite hb, f32IsInf_of_finite ha, f32IsInf_of_finite hb, Bool.or_self,
      Bool.false_eq_true, if_false]
    rfl
  have habs : (f32Units a * f32Units b).natAbs = f32Mag a * f32Mag b := by
    rw [Int.natAbs_mul, natAbs_f32Units, natAbs_f32Units]
  rw [hmul, f32Units_pack_roundMag, roundedUnits, habs]
  by_cases h0 : f32Mag a * f32Mag b = 0
  · rw [h0, roundedMag_zero]
    simp
  · refine if_congr ?_ rfl rfl
    have hpos : 0 < (f32Mag a * f32Mag b : Int) := by exact_mod_cast Nat.pos_of_ne_zero h0
    unfold f32Units
    cases f32Sign a <;> cases f32Sign b <;> simp <;> omega

theorem f32Units_add {a b : F32} (ha : f32Finite a) (hb : f32Finite b) : f32Units (f32Add a b) = roundedUnits 1 (f32Units a + f32Units b) := by
  simp only [f32Add, f32AddNum, f32IsNan_of_finite ha, f32IsNan_of_finite hb, f32IsInf_of_finite ha, f32IsInf_of_finite hb, Bool.or_self,
    Bool.false_eq_true, if_false]
  split
  · next h0 =>
    rw [h0, f32Zero, f32Units_eq_zero.mpr (f32Mag_pack_zero _), roundedUnits, Int.natAbs_zero, roundedMag_zero]
    rfl
  · simp only [f32Units_pack_roundMag, decide_eq_true_eq, roundedUnits]

theorem finite_of_number {x : F32} (hn : f32IsNan x = false) (hi : f32IsInf x = false) : f32Finite x := by
  intro he
  rw [f32IsNan, beq_iff_eq.mpr he, Bool.true_and] at hn
  rw [f32IsInf, beq_iff_eq.mpr he, Bool.true_and] at hi
  rw [beq_eq_false_iff_ne] at hi
  exact hi (by simpa using hn)

theorem not_finite_of_isInf {x : F32} (h : f32IsInf x = true) : ¬ f32Finite x := fun hf =>
  Bool.false_ne_true ((f32IsInf_of_finite hf).symm.trans h)

theorem f32IsInf_inf (s : Bool) : f32IsInf (f32Inf s) = true := by
  cases s <;> decide

/-- A finite sum has finite operands when the first one is. -/
theorem finite_right_of_add {a b : F32} (ha : f32Finite a) (h : f32Finite (f32Add a b)) : f32Finite b := by
  obtain ⟨-, hb⟩ := numbers_of_guarded (a := a) (b := b) 0 (f32IsNan_of_finite h)
  refine finite_of_number hb (Bool.eq_false_iff.mpr fun hinf => not_finite_of_isInf hinf ?_)
  simpa only [f32Add, f32AddNum, f32IsNan_of_finite ha, hb, f32IsInf_of_finite ha, hinf, Bool.or_self, Bool.false_eq_true, if_false,
    if_true] using h

/-- A finite product has a finite second operand. -/
theorem finite_right_of_mul {a b : F32} (h : f32Finite (f32Mul a b)) : f32Finite b := by
  obtain ⟨ha, hb⟩ := numbers_of_mul (f32IsNan_of_finite h)
  refine finite_of_number hb (Bool.eq_false_iff.mpr fun hinf => ?_)
  simp only [f32Mul, ha, hb, hinf, Bool.or_self, Bool.or_true, Bool.false_eq_true, if_false, if_true] at h
  split at h
  · exact absurd (f32IsNan_of_finite h) (not_number_nan _ _ _)
  · exact not_finite_of_isInf (f32IsInf_inf _) h

theorem f32Finite_ofNat {n : Nat} (hn : n < 2 ^ 16) : f32Finite (f32OfInt n) := by
  unfold f32OfInt
  split
  · exact f32Finite_pack false (by decide)
  · refine f32Finite_pack _ (lt_of_le_of_lt (min_le_left _ _) ((roundMag_lt_inf_iff _ one_pos).mpr ?_))
    have := Nat.mul_lt_mul_of_pos_right hn (Nat.two_pow_pos 149)
    rw [Int.natAbs_natCast, f32One]
    omega

/-! ## The steering width -/

/-- The width before rounding to a u16, in units, from the product of the angle and the slope. -/
def steerUnits (c : Config) (p : Int) : Int := roundedUnits 1 (f32Units (f32OfInt c.steerCenterUs.toNat) + roundedUnits (2 ^ 149) p)

theorem steerUnits_mono (c : Config) : Monotone (steerUnits c) := fun _ _ h =>
  roundedUnits_mono one_pos (add_le_add_right (roundedUnits_mono (Nat.two_pow_pos _) h) _)

theorem f32Finite_center (c : Config) : f32Finite (f32OfInt c.steerCenterUs.toNat) := f32Finite_ofNat c.steerCenterUs.isLt

/-- An angle whose width is a positive value that rounds to a u16. -/
structure SteerFits (c : Config) (a : F32) : Prop where
  finite : f32Finite (steerWidthF32 c a)
  pos : 0 < f32Units (steerWidthF32 c a)
  le : roundDiv (f32Mag (steerWidthF32 c a)) f32One ≤ 65535

theorem toNat_f32ToU16 {x : F32} (hf : f32Finite x) (hpos : 0 < f32Units x) (hle : roundDiv (f32Mag x) f32One ≤ 65535) :
    (f32ToU16 x).toNat = roundDiv (f32Mag x) f32One := by
  obtain ⟨hsign, -⟩ := f32Units_pos_iff.mp hpos
  simp only [f32ToU16, f32IsNan_of_finite hf, f32IsInf_of_finite hf, hsign, Bool.false_and, Bool.or_self, Bool.false_or,
    decide_eq_true_eq, if_neg (Nat.not_lt.mpr hle)]
  exact Nat.mod_eq_of_lt (by omega)

theorem SteerFits.toNat_steerWidth {c : Config} {a : F32} (h : SteerFits c a) :
    (steerWidth c a).toNat = roundDiv (f32Mag (steerWidthF32 c a)) f32One := toNat_f32ToU16 h.finite h.pos h.le

/-- The width is within half a unit of the value, and even at a tie. -/
theorem SteerFits.steerImage {c : Config} {a : F32} (h : SteerFits c a) : steerImage c a (steerWidth c a) := by
  obtain ⟨hsign, -⟩ := f32Units_pos_iff.mp h.pos
  obtain ⟨q, r, hmag, hr, hq⟩ := roundDiv_cases (f32Mag (steerWidthF32 c a)) (Nat.two_pow_pos 149)
  have hwidth : (steerWidth c a).toNat = roundDiv (f32Mag (steerWidthF32 c a)) (2 ^ 149) := h.toNat_steerWidth
  have hunits : f32Units (steerWidthF32 c a) = f32Mag (steerWidthF32 c a) := by
    rw [f32Units, hsign, if_neg Bool.false_ne_true]
  have hbit : (steerWidth c a).getLsbD 0 = false ↔ (steerWidth c a).toNat % 2 = 0 := by
    rw [← BitVec.testBit_toNat, Nat.testBit_zero, decide_eq_false_iff_not]
    omega
  refine ⟨h.finite, ?_⟩
  change 2 * (((steerWidth c a).toNat : Int) * 2 ^ 149 - f32Units (steerWidthF32 c a)).natAbs ≤ 2 ^ 149
    ∧ (2 * (((steerWidth c a).toNat : Int) * 2 ^ 149 - f32Units (steerWidthF32 c a)).natAbs = 2 ^ 149 → (steerWidth c a).getLsbD 0 = false)
  rw [hbit, hunits, hwidth, hmag]
  rw [hmag] at hq
  omega

/-- An accepted configuration has such a width at the travel limits (R357 (f)). -/
theorem steerFits_of_okSteerWidth {c : Config} {a : F32} (h : c.okSteerWidth a = true) : SteerFits c a := by
  obtain ⟨hfits, hone⟩ := Bool.and_eq_true_iff.mp h
  have hone := of_decide_eq_true hone
  simp only [f32FitsU16, Bool.not_eq_true', Bool.or_eq_false_iff, Bool.and_eq_false_iff, decide_eq_false_iff_not, Nat.not_lt] at hfits
  obtain ⟨⟨⟨hnan, hinf⟩, hsign⟩, hle⟩ := hfits
  have hfin := finite_of_number hnan hinf
  have hwidth : (steerWidth c a).toNat = roundDiv (f32Mag (steerWidthF32 c a)) f32One := by
    simp only [steerWidth, f32ToU16, hnan, hinf, Bool.or_self, Bool.false_or, Bool.or_eq_true, Bool.and_eq_true, decide_eq_true_eq]
    rw [if_neg (not_or.mpr ⟨fun ⟨hs, hn⟩ => hsign.elim (fun h => Bool.false_ne_true (h.symm.trans hs))
      (fun h => Bool.false_ne_true (h.symm.trans hn)), Nat.not_lt.mpr hle⟩)]
    exact Nat.mod_eq_of_lt (by omega)
  have hne : roundDiv (f32Mag (steerWidthF32 c a)) f32One ≠ 0 := by omega
  refine ⟨hfin, f32Units_pos_iff.mpr ⟨hsign.resolve_right (by simpa using hne), fun h0 => hne ?_⟩, hle⟩
  rw [h0]
  rfl

theorem SteerFits.finite_slope {c : Config} {a : F32} (h : SteerFits c a) : f32Finite c.steerUsPerRad :=
  finite_right_of_mul (finite_right_of_add (f32Finite_center c) h.finite)

theorem f32Units_steerWidthF32 {c : Config} {a : F32} (ha : f32Finite a) (hs : f32Finite c.steerUsPerRad)
    (hm : f32Finite (f32Mul a c.steerUsPerRad)) :
    f32Units (steerWidthF32 c a) = steerUnits c (f32Units a * f32Units c.steerUsPerRad) := by
  rw [steerWidthF32, f32Units_add (f32Finite_center c) hm, f32Units_mul ha hs, steerUnits]

/-- An angle whose product with the slope is between those of two that fit has a width between theirs. -/
theorem SteerFits.between {c : Config} {x y a : F32} (hx : SteerFits c x) (hy : SteerFits c y) (hfx : f32Finite x) (hfy : f32Finite y)
    (hfa : f32Finite a) (hxa : f32Units x * f32Units c.steerUsPerRad ≤ f32Units a * f32Units c.steerUsPerRad)
    (hay : f32Units a * f32Units c.steerUsPerRad ≤ f32Units y * f32Units c.steerUsPerRad) :
    SteerFits c a ∧ (steerWidth c x).toNat ≤ (steerWidth c a).toNat ∧ (steerWidth c a).toNat ≤ (steerWidth c y).toNat := by
  have hs := hx.finite_slope
  have hmx := finite_right_of_add (f32Finite_center c) hx.finite
  have hmy := finite_right_of_add (f32Finite_center c) hy.finite
  have hmul := roundedUnits_mono (den := 2 ^ 149) (Nat.two_pow_pos _)
  have hma : f32Finite (f32Mul a c.steerUsPerRad) := f32Finite_of_between hmx hmy
    (by rw [f32Units_mul hfx hs, f32Units_mul hfa hs]; exact hmul hxa) (by rw [f32Units_mul hfa hs, f32Units_mul hfy hs]; exact hmul hay)
  have hlow : f32Units (steerWidthF32 c x) ≤ f32Units (steerWidthF32 c a) := by
    rw [f32Units_steerWidthF32 hfx hs hmx, f32Units_steerWidthF32 hfa hs hma]
    exact steerUnits_mono c hxa
  have hhigh : f32Units (steerWidthF32 c a) ≤ f32Units (steerWidthF32 c y) := by
    rw [f32Units_steerWidthF32 hfa hs hma, f32Units_steerWidthF32 hfy hs hmy]
    exact steerUnits_mono c hay
  have hpos := hx.pos
  have hround : ∀ {v w : F32}, 0 < f32Units v → f32Units v ≤ f32Units w → roundDiv (f32Mag v) f32One ≤ roundDiv (f32Mag w) f32One := by
    intro v w hv hvw
    rw [← natAbs_f32Units, ← natAbs_f32Units]
    exact roundDiv_mono (Nat.two_pow_pos 149) (by omega)
  have hfits : SteerFits c a := ⟨f32Finite_of_between hx.finite hy.finite hlow hhigh, by omega, (hround (by omega) hhigh).trans hy.le⟩
  refine ⟨hfits, ?_, ?_⟩
  · rw [hx.toNat_steerWidth, hfits.toNat_steerWidth]
    exact hround hpos hlow
  · rw [hfits.toNat_steerWidth, hy.toNat_steerWidth]
    exact hround hfits.pos hhigh

/-- An angle between the travel limits has a width between theirs, on either side of the greater one. -/
theorem SteerFits.of_clamped {c : Config} {lo hi a : F32} (hlo : SteerFits c lo) (hhi : SteerFits c hi) (hflo : f32Finite lo)
    (hfhi : f32Finite hi) (hla : f32Units lo ≤ f32Units a) (hah : f32Units a ≤ f32Units hi) :
    SteerFits c a ∧ min (steerWidth c lo).toNat (steerWidth c hi).toNat ≤ (steerWidth c a).toNat
      ∧ (steerWidth c a).toNat ≤ max (steerWidth c lo).toNat (steerWidth c hi).toNat := by
  have hfa := f32Finite_of_between hflo hfhi hla hah
  rcases le_total 0 (f32Units c.steerUsPerRad) with hs | hs
  · obtain ⟨hfits, hl, hh⟩ := hlo.between hhi hflo hfhi hfa (mul_le_mul_of_nonneg_right hla hs) (mul_le_mul_of_nonneg_right hah hs)
    exact ⟨hfits, by omega, by omega⟩
  · obtain ⟨hfits, hl, hh⟩ := hhi.between hlo hfhi hflo hfa (mul_le_mul_of_nonpos_right hah hs) (mul_le_mul_of_nonpos_right hla hs)
    exact ⟨hfits, by omega, by omega⟩

/-! ## The clamp -/

/-- The travel limits of an accepted configuration: numbers on either side of zero, with widths (R357 (f)). -/
structure SteerLimits (c : Config) : Prop where
  finiteMin : f32Finite c.steerMin
  finiteMax : f32Finite c.steerMax
  minLe : f32Units c.steerMin ≤ 0
  maxGe : 0 ≤ f32Units c.steerMax
  fitsMin : SteerFits c c.steerMin
  fitsMax : SteerFits c c.steerMax

theorem f32Units_le_of_not_lt {a b : F32} (ha : f32IsNan a = false) (hb : f32IsNan b = false) (h : f32Lt a b = false) :
    f32Units b ≤ f32Units a := by
  by_contra hlt
  exact Bool.false_ne_true (h.symm.trans (f32Lt_iff.mpr ⟨ha, hb, Int.not_le.mp hlt⟩))

theorem f32Units_zero : f32Units 0#32 = 0 := by decide

theorem steerLimits_of_ok {c : Config} (hok : c.ok = true) : SteerLimits c := by
  simp only [Config.ok, Config.okSteering, Bool.and_eq_true, Bool.not_eq_true'] at hok
  obtain ⟨nanMin, infMin, nanMax, infMax, hmin, hmax, okMin, okMax⟩ : f32IsNan c.steerMin = false ∧ f32IsInf c.steerMin = false
      ∧ f32IsNan c.steerMax = false ∧ f32IsInf c.steerMax = false ∧ f32Lt 0#32 c.steerMin = false ∧ f32Lt c.steerMax 0#32 = false
      ∧ c.okSteerWidth c.steerMin = true ∧ c.okSteerWidth c.steerMax = true := by tauto
  have hzero : f32IsNan 0#32 = false := by decide
  exact ⟨finite_of_number nanMin infMin, finite_of_number nanMax infMax, f32Units_zero ▸ f32Units_le_of_not_lt hzero nanMin hmin,
    f32Units_zero ▸ f32Units_le_of_not_lt nanMax hzero hmax, steerFits_of_okSteerWidth okMin, steerFits_of_okSteerWidth okMax⟩

theorem not_f32Lt_of_le {a b : F32} (h : f32Units b ≤ f32Units a) : f32Lt a b = false :=
  Bool.eq_false_iff.mpr fun hlt => absurd (f32Lt_iff.mp hlt).2.2 (not_lt.mpr h)

section
variable {c : Config} (h : SteerLimits c)
include h

theorem SteerLimits.clampAngle_of_nan {angle : F32} (hn : f32IsNan angle = true) : clampAngle c angle = 0#32 := by
  simp only [clampAngle, hn, if_true, not_f32Lt_of_le (f32Units_zero.symm ▸ h.minLe : f32Units c.steerMin ≤ f32Units 0#32),
    not_f32Lt_of_le (f32Units_zero.symm ▸ h.maxGe : f32Units 0#32 ≤ f32Units c.steerMax), Bool.false_eq_true, if_false]

theorem SteerLimits.clampAngle_of_below {angle : F32} (hlt : f32Lt angle c.steerMin = true) : clampAngle c angle = c.steerMin := by
  obtain ⟨hn, -, -⟩ := f32Lt_iff.mp hlt
  simp only [clampAngle, hn, hlt, if_true, not_f32Lt_of_le (h.minLe.trans h.maxGe), Bool.false_eq_true, if_false]

theorem SteerLimits.clampAngle_of_above {angle : F32} (hlt : f32Lt c.steerMax angle = true) : clampAngle c angle = c.steerMax := by
  obtain ⟨-, hn, hunits⟩ := f32Lt_iff.mp hlt
  simp only [clampAngle, hn, hlt, if_true, not_f32Lt_of_le ((h.minLe.trans h.maxGe).trans hunits.le), Bool.false_eq_true, if_false]

omit h in
theorem clampAngle_of_inside {angle : F32} (hn : f32IsNan angle = false) (hlo : f32Lt angle c.steerMin = false)
    (hhi : f32Lt c.steerMax angle = false) : clampAngle c angle = angle := by
  simp only [clampAngle, hn, hlo, hhi, Bool.false_eq_true, if_false]

/-- The clamped angle lies between the limits. -/
theorem SteerLimits.clampAngle_between (angle : F32) :
    f32Units c.steerMin ≤ f32Units (clampAngle c angle) ∧ f32Units (clampAngle c angle) ≤ f32Units c.steerMax := by
  have hle := h.minLe.trans h.maxGe
  cases hn : f32IsNan angle with
  | true =>
    rw [h.clampAngle_of_nan hn, f32Units_zero]
    exact ⟨h.minLe, h.maxGe⟩
  | false =>
    cases hlo : f32Lt angle c.steerMin with
    | true =>
      rw [h.clampAngle_of_below hlo]
      exact ⟨le_rfl, hle⟩
    | false =>
      cases hhi : f32Lt c.steerMax angle with
      | true =>
        rw [h.clampAngle_of_above hhi]
        exact ⟨hle, le_rfl⟩
      | false =>
        rw [clampAngle_of_inside hn hlo hhi]
        exact ⟨f32Units_le_of_not_lt hn (f32IsNan_of_finite h.finiteMin) hlo, f32Units_le_of_not_lt (f32IsNan_of_finite h.finiteMax) hn hhi⟩

end

/-- Settles O49: the clamp by cases, and the width by monotony. -/
theorem actSteerClamps : Obligations.ActSteerClamps := by
  unfold Obligations.ActSteerClamps
  intro s angle hok
  have h := steerLimits_of_ok hok
  obtain ⟨hlo, hhi⟩ := h.clampAngle_between angle
  obtain ⟨hfits, hmin, hmax⟩ := h.fitsMin.of_clamped h.fitsMax h.finiteMin h.finiteMax hlo hhi
  exact ⟨clampAngle s.blk.cfg angle, _, _, _, done_eq_next (congrArg Prod.snd (run_steerTo _ _ _)), hfits.steerImage, h.fitsMin.steerImage,
    h.fitsMax.steerImage, hmin, hmax, h.clampAngle_of_nan, h.clampAngle_of_below, h.clampAngle_of_above, clampAngle_of_inside⟩

end Sys2Proof.Machine
end
